-- ==== Sys2Proof/Word.lean ====
section
/-! DEFINITION. The widths of the block: a byte on the bus and the text sink (R11, R55), a 16-bit axis reading (R7). -/

namespace Sys2Proof

/-- A byte: 8 bits (R11). Every bus transfer, text-sink transfer and command is one (R55, R64). -/
abbrev Byte := BitVec 8

/-- One axis reading: 16 bits, read as two's complement by `BitVec.toInt` (R7, R12, R95). -/
abbrev Word := BitVec 16

end Sys2Proof
end

