-- ==== Sys2Proof/Syntax.lean ====
section
/-! DEFINITION. The command set SSB-CMD version 1: channels (R21, R22), one constructor for each row of the opcode table
(R65), the formats (R64), and the lines of a command program (R69, R70). -/

namespace Sys2Proof

/-- The six channels, in index order, which is wire order (R21, R22). -/
inductive Channel where
  | accX | accY | accZ | gyroRoll | gyroPitch | gyroYaw
  deriving DecidableEq, Repr

/-- Channels 0 to 2 are accelerometer channels, 3 to 5 gyroscope channels (R22). -/
inductive ChannelKind where
  | accelerometer | gyroscope
  deriving DecidableEq, Repr

/-- The commands, one constructor for each row of the opcode table (R65). No command has an operand of its own: the
channel of a `GET_*` is fixed by its code (R109 to R114). -/
inductive Instr where
  /-- `SAMPLE` (R107) -/
  | sample
  /-- `DUMP` (R116) -/
  | dump
  /-- `GET_ACC_X` (R109) -/
  | getAccX
  /-- `GET_ACC_Y` (R110) -/
  | getAccY
  /-- `GET_ACC_Z` (R111) -/
  | getAccZ
  /-- `GET_GYRO_ROLL` (R112) -/
  | getGyroRoll
  /-- `GET_GYRO_PITCH` (R113) -/
  | getGyroPitch
  /-- `GET_GYRO_YAW` (R114) -/
  | getGyroYaw
  deriving DecidableEq, Repr

/-- The two layouts of a command word (R64). -/
inductive Format where
  /-- the whole word is the opcode -/
  | cmd0
  /-- bits 7..3 are the opcode, bits 2..0 the channel -/
  | cmdG
  deriving DecidableEq, Repr

/-- One line of a command program (R69, R70), already read from its text. -/
inductive AsmLine where
  /-- a line with no command on it: blank, or a comment only -/
  | blank
  /-- a mnemonic (R69) -/
  | cmd (i : Instr)
  /-- the pseudo-instruction `GET <ch>` with a decimal index (R70) -/
  | getIndex (n : Nat)
  /-- the pseudo-instruction `GET <ch>` with a channel name (R70) -/
  | getName (ch : Channel)
  /-- the directive `.cmd <byte>` (R69) -/
  | raw (n : Nat)
  deriving DecidableEq, Repr

end Sys2Proof
end

