-- ==== Sys2Proof/Machine/Channels.lean ====
section
/-! DEFINITION. The numbering of the channels (R21, R22), and which command reads which channel in which format (R64, R65). -/

namespace Sys2Proof

/-- The index of a channel (R21). -/
def Channel.index : Channel → Nat
  | .accX => 0
  | .accY => 1
  | .accZ => 2
  | .gyroRoll => 3
  | .gyroPitch => 4
  | .gyroYaw => 5

/-- The channel of an index; 6 and above name none (R54). -/
def Channel.ofIndex : Nat → Option Channel
  | 0 => some .accX
  | 1 => some .accY
  | 2 => some .accZ
  | 3 => some .gyroRoll
  | 4 => some .gyroPitch
  | 5 => some .gyroYaw
  | _ => none

/-- The kind of a channel (R21, R22). -/
def Channel.kind : Channel → ChannelKind
  | .accX | .accY | .accZ => .accelerometer
  | .gyroRoll | .gyroPitch | .gyroYaw => .gyroscope

/-- All channels, in index order (R22). -/
def Channel.all : List Channel := [.accX, .accY, .accZ, .gyroRoll, .gyroPitch, .gyroYaw]

/-- The `GET_*` command of a channel (R65). -/
def Instr.get : Channel → Instr
  | .accX => .getAccX
  | .accY => .getAccY
  | .accZ => .getAccZ
  | .gyroRoll => .getGyroRoll
  | .gyroPitch => .getGyroPitch
  | .gyroYaw => .getGyroYaw

/-- The channel a command reads, for the `CMDG` commands (R65). -/
def Instr.channel : Instr → Option Channel
  | .sample => none
  | .dump => none
  | .getAccX => some .accX
  | .getAccY => some .accY
  | .getAccZ => some .accZ
  | .getGyroRoll => some .gyroRoll
  | .getGyroPitch => some .gyroPitch
  | .getGyroYaw => some .gyroYaw

/-- The format of a command (R64, R65). -/
def Instr.format : Instr → Format
  | .sample | .dump => .cmd0
  | .getAccX | .getAccY | .getAccZ | .getGyroRoll | .getGyroPitch | .getGyroYaw => .cmdG

/-- All commands, in the table's order (R65). -/
def Instr.all : List Instr :=
  [.sample, .dump, .getAccX, .getAccY, .getAccZ, .getGyroRoll, .getGyroPitch, .getGyroYaw]

end Sys2Proof
end

