-- ==== Sys2Proof/WellFormed.lean ====
section
/-! DEFINITION. The checks on syntax. A command has no operand, so every `Instr` is well formed; what can be ill formed is a
channel field (R66), a channel operand of `GET` (R70) and the number of a `.cmd` (R69). -/

namespace Sys2Proof

/-- A channel index names a register of the cache: 0 to 5 (R54, R66). -/
def channelFieldWf (n : Nat) : Bool := decide (n ≤ 5)

/-- A `<byte>` of the directive `.cmd` fits one command word (R64, R69). -/
def rawByteWf (n : Nat) : Bool := decide (n ≤ 255)

/-- A command is well formed: the channel of a `CMDG` command is a cache index (R64, R66). -/
def Instr.wf (i : Instr) : Bool :=
  match i.channel with
  | none => true
  | some ch => channelFieldWf ch.index

/-- A line is well formed: `GET 6` and `GET 7` are not accepted (R70), and `.cmd` takes one byte (R69). -/
def AsmLine.wf : AsmLine → Bool
  | .blank => true
  | .cmd i => i.wf
  | .getIndex n => channelFieldWf n
  | .getName ch => channelFieldWf ch.index
  | .raw n => rawByteWf n

end Sys2Proof
end

