-- ==== Sys2Proof/Decode.lean ====
section
/-! DEFINITION. The decoder of command words, total on all 256 codes (R66), and the encoder (R64, R65). -/

namespace Sys2Proof

/-- Why a command word is no command. -/
inductive DecodeError where
  /-- `ILLEGAL` (R66): the word is none of the eight codes. The block answers it with status `ILLEGAL_COMMAND` (R115). -/
  | illegal (code : Byte)
  deriving DecidableEq, Repr

/-- The opcode field of a `CMDG` word: bits 7..3 (R64). -/
def opcodeField (c : Byte) : BitVec 5 := c.extractLsb' 3 5

/-- The channel field of a `CMDG` word: bits 2..0, zero-extended (R64, R67). -/
def channelField (c : Byte) : Nat := (c.extractLsb' 0 3).toNat

/-- `Decode` (R66): every code gives a command, or is `ILLEGAL` by name. -/
def decode (c : Byte) : Except DecodeError Instr :=
  if c = 0x01#8 then .ok .sample
  else if c = 0x02#8 then .ok .dump
  else if opcodeField c = 0b00010#5 then
    match Channel.ofIndex (channelField c) with
    | some ch => .ok (Instr.get ch)
    | none => .error (.illegal c)
  else .error (.illegal c)

/-- The word of a `CMDG` command: opcode `00010`, then the channel (R64). -/
def encodeGet (ch : Channel) : Byte := 0b00010#5 ++ BitVec.ofNat 3 ch.index

/-- The word of a command (R64, R65). -/
def encode : Instr → Byte
  | .sample => 0x01
  | .dump => 0x02
  | .getAccX => encodeGet .accX
  | .getAccY => encodeGet .accY
  | .getAccZ => encodeGet .accZ
  | .getGyroRoll => encodeGet .gyroRoll
  | .getGyroPitch => encodeGet .gyroPitch
  | .getGyroYaw => encodeGet .gyroYaw

/-- The first command word of an instruction whose bits are `w`: every command is exactly one byte (R68), the least
significant one. -/
def commandWord (nbits w : Nat) : Byte := BitVec.ofNat 8 (w % 2 ^ nbits)

/-- What the decoder reads from a row's bits, numbered as the opcode table numbers them. -/
def decodeTableWord (nbits w : Nat) : Option Instr :=
  match decode (commandWord nbits w) with
  | .ok i => some i
  | .error _ => none

/-- The commands of a sequence of words, one command a byte (R68); the first illegal word stops it by name. -/
def decodeProgram : List Byte → Except DecodeError (List Instr)
  | [] => .ok []
  | c :: cs =>
    match decode c with
    | .error e => .error e
    | .ok i =>
      match decodeProgram cs with
      | .error e => .error e
      | .ok is => .ok (i :: is)

end Sys2Proof
end

