-- ==== Sys2Proof/Config.lean ====
section
/-! DEFINITION. What an instance of the block fixes: the open parameters (R8, R9), the fixed quantities (R7), and the
free value of the model (R82). -/

namespace Sys2Proof.Config

/-- The instance parameters (R8, R9, R33). `SA >= 1` and `SG >= 1` are carried by the type. They are no state (R45):
every operation that reads them takes them as an argument. -/
structure Params where
  /-- `SA`, the accelerometer sensitivity divisor (R8) -/
  sa : ℕ+
  /-- `SG`, the gyroscope sensitivity divisor (R8) -/
  sg : ℕ+
  /-- `BOUNDED_WAIT`, by default false (R9) -/
  boundedWait : Bool := false
  deriving DecidableEq, Repr, Inhabited

/-- The parameters of the instance that `Machine.step` runs. The spec leaves `SA` and `SG` OPEN and makes `BOUNDED_WAIT`
a parameter (R8, R9), so the constant has no value in Lean: what is proved of it holds for every instance.
DESIGN CHOICE, safe: notes/assumptions/1.md. -/
opaque params : Params

/-- The value of the n-th byte received during contention: "whatever the environment supplies" (R82, U6). A free value:
nothing constrains it. DESIGN CHOICE, safe: notes/assumptions/6.md. -/
opaque contentionByte : Nat → Byte

/-- `N_CH` (R7) -/
def channelCount : Nat := 6

/-- `DATA_LEN`, data bytes per frame (R7) -/
def dataLen : Nat := 12

/-- `DELIM_LEN`, delimiter bytes per frame (R7) -/
def delimLen : Nat := 1

/-- `FRAME_LEN`, bytes per response frame (R7, R75) -/
def frameLen : Nat := dataLen + delimLen

/-- `REQ_BYTE`, the request byte (R7, R74) -/
def reqByte : Byte := 0x3C

/-- `DELIM_CONV`, the value the responder conventionally sends as delimiter; the block never checks it (R7, R76) -/
def delimConv : Byte := 0x0A

end Sys2Proof.Config
end

