-- ==== Sys2Proof/Machine/State.lean ====
section
/-! DEFINITION. The state of the block and of the environment it meets, as plain data, and the state after power-up
(R19 to R45). -/

namespace Sys2Proof.Machine

/-- Why the machine stops. Neither is reached from a state that satisfies the block's invariants (Safety.lean). -/
inductive Fault where
  /-- Raised by `stepRxData` where `rx_count` is 12 or more: the frame buffer has offsets 0 to 11 only (R48). In phase
  `RX_DATA` `rx_count` is 0 to 11 (R28), so no reachable state raises it. Safe. -/
  | frameBufferOffset
  /-- Raised by `cacheRead` and `cacheWrite` at a width and offset for which R49 does not define `MemRead` and
  `MemWrite`. No command uses them, so no step raises it. Safe. -/
  | cacheViewAccess
  deriving DecidableEq, Repr

/-- Why the model gives no meaning. -/
inductive Refusal where
  /-- Raised only by an arm of `exec` whose command has no meaning in the model; there is none. Safe. -/
  | notModelled (mnemonic : String)
  deriving DecidableEq, Repr

/-- A byte store: the bytes that differ from `0x00`, by strictly rising address. -/
abbrev Memory := List Host.Cell

/-- The cache, the block's register file: six 16-bit registers (R21). -/
structure Cache where
  accX : Word
  accY : Word
  accZ : Word
  gyroRoll : Word
  gyroPitch : Word
  gyroYaw : Word
  deriving DecidableEq, Repr

/-- The phase register (R24). Its encoding in bits is not architectural. -/
inductive Phase where
  /-- no command in progress; bus not owned -/
  | idle
  /-- bus owned; request byte to be sent -/
  | reqTx
  /-- request sent; direction to be released -/
  | turn
  /-- receiving the 12 data bytes -/
  | rxData
  /-- receiving the one delimiter byte -/
  | rxDelim
  /-- frame complete; swap, scale and commit to be done -/
  | process
  /-- `DUMP` only: writing the text to the sink -/
  | emit
  deriving DecidableEq, Repr

/-- The current-command register (R26). -/
inductive CurCmd where
  | none | sample | dump
  deriving DecidableEq, Repr

/-- The kind of a response (R71). -/
inductive RespKind where
  | status | value
  deriving DecidableEq, Repr

/-- A response: its kind and its 16-bit value (R30, R71). -/
structure Response where
  kind : RespKind
  value : Word
  deriving DecidableEq, Repr

/-- The status codes by name (R72). -/
inductive Status where
  | ok | busTimeout | frameUnderrun
  /-- never produced (R128) -/
  | malformedFrame
  | illegalCommand
  deriving DecidableEq, Repr

/-- An event of the observation history (R41). -/
inductive HistEvent where
  /-- `Dir(v)` -/
  | dir (v : Bool)
  /-- `Tx(b)` -/
  | tx (b : Byte)
  /-- `Rx(b)`, a byte the block read -/
  | rx (b : Byte)
  /-- `Text(b)` -/
  | text (b : Byte)
  /-- `Resp(kind, value)` -/
  | resp (r : Response)
  /-- `Reset` -/
  | reset
  deriving DecidableEq, Repr

/-- What a host does at its two ports: present a command (R35), take the response (R36). -/
inductive HostAct where
  | cmd (c : Byte)
  | takeResp
  deriving DecidableEq, Repr

/-- Which agent moves next (R15, R19): the block by its step, or the environment by one of its events. -/
inductive Move where
  /-- the block takes its step, if it has one enabled -/
  | block
  /-- the host does its next act, if its port is open (R35, R36) -/
  | host
  /-- `RxArrive(b)` (R38) -/
  | rxArrive (b : Byte)
  /-- `Timeout()` (R42) -/
  | timeout
  /-- `Reset()` (R43) -/
  | reset
  /-- the bus transmitter becomes able (or unable) to take a byte (R37) -/
  | txReady (v : Bool)
  /-- the text sink becomes able (or unable) to take a byte (R40) -/
  | sinkReady (v : Bool)
  deriving DecidableEq, Repr

/-- The whole state: the block's own (R21 to R31), the model-only flags (R34), the environment's (R38) and the observation
history (R41); the last six fields are the model's own record of what the environment does next. -/
structure State where
  /-- `cache` (R21) -/
  cache : Cache
  /-- `phase` (R24) -/
  phase : Phase
  /-- `cur` (R26) -/
  cur : CurCmd
  /-- `dir`, one bit: true is 1, transmit (R10, R31) -/
  dir : Bool
  /-- `fbuf`, byte offsets 0 to 11 in wire order (R27, R48) -/
  fbuf : Memory
  /-- `rx_count` (R28) -/
  rxCount : Nat
  /-- `text` (R29) -/
  text : List Byte
  /-- `tidx` (R29) -/
  tidx : Nat
  /-- `resp` (R30) -/
  resp : Option Response
  /-- model-only flag `valid` (R34) -/
  valid : Bool
  /-- model-only sticky flag `contention` (R34, R82) -/
  contention : Bool
  /-- `rxq`, the environment's stream of received bytes, oldest first (R38) -/
  rxq : List Byte
  /-- `hist`, oldest first (R41) -/
  hist : List HistEvent
  /-- the model's: what the host will do at its ports, in order (R35, R36, R155) -/
  hostq : List HostAct
  /-- the model's: the responses the host has taken, oldest first (R36, R155) -/
  taken : List Response
  /-- the model's: the transmitter can take a byte (R37, R79) -/
  txReady : Bool
  /-- the model's: the text sink can take a byte (R40, R120) -/
  sinkReady : Bool
  /-- the model's: how many free values have been drawn (R82) -/
  draws : Nat
  /-- the model's: who moves next, in order (R15) -/
  sched : List Move
  deriving DecidableEq, Repr

/-- The cache after reset: `0x0000` each (R44). -/
def Cache.zero : Cache := ⟨0, 0, 0, 0, 0, 0⟩

/-- The machine at power-up, before the first step: the block in its reset state, `rxq` and `hist` empty, `contention`
false (R44). The model's own fields: nothing scheduled, nothing presented, both transports ready, no free value drawn
(DESIGN CHOICE: notes/assumptions/2.md, 3.md, 4.md, 5.md, 6.md). -/
def State.reset : State where
  cache := Cache.zero
  phase := .idle
  cur := .none
  dir := false
  fbuf := []
  rxCount := 0
  text := []
  tidx := 0
  resp := none
  valid := false
  contention := false
  rxq := []
  hist := []
  hostq := []
  taken := []
  txReady := true
  sinkReady := true
  draws := 0
  sched := []

end Sys2Proof.Machine
end

