-- ==== Sys2Proof/Machine/Flags.lean ====
section
/-! DEFINITION. Flags. The block has no flags, condition codes or predicates (R32): no command computes one. The two
model-only flags (R34) are set here and read by no step. -/

namespace Sys2Proof.Machine

/-- The first successful sample sets `valid`; only reset clears it (R34, R108). -/
def markValid (s : State) : State := { s with valid := true }

/-- A byte that arrives while `dir` is 1 sets the sticky flag `contention`; nothing clears it (R34, R82). -/
def noteContention (s : State) : State := { s with contention := s.contention || s.dir }

end Sys2Proof.Machine
end

