-- ==== Sys2Proof/Machine/Memory.lean ====
section
/-! DEFINITION. Reading and writing a byte store, the form in which the frame buffer is held (R27, R48). -/

namespace Sys2Proof.Machine

/-- What an unlisted offset reads as: `0x00`, the frame buffer's reset contents (R44). -/
def unlistedByte : Byte := 0x00

/-- The byte at an offset. -/
def Memory.read : Memory → Nat → Byte
  | [], _ => unlistedByte
  | (a, b) :: m, k => if a = k then b else Memory.read m k

/-- Writing a byte; writing what an unlisted offset reads as removes the entry. -/
def Memory.write : Memory → Nat → Byte → Memory
  | [], k, b => if b = unlistedByte then [] else [(k, b)]
  | (a, c) :: m, k, b =>
    if k < a then (if b = unlistedByte then (a, c) :: m else (k, b) :: (a, c) :: m)
    else if k = a then (if b = unlistedByte then m else (k, b) :: m)
    else (a, c) :: Memory.write m k b

/-- Every listed offset is at least `lo` and the offsets rise strictly. -/
def Memory.rising : Nat → Memory → Bool
  | _, [] => true
  | lo, (a, _) :: m => decide (lo ≤ a) && Memory.rising (a + 1) m

/-- The canonical form: offsets strictly rising, no entry equal to what an unlisted offset reads as. -/
def Memory.wf (m : Memory) : Bool :=
  Memory.rising 0 m && m.all (fun c => decide (c.2 ≠ unlistedByte))

/-- Every listed offset lies in the frame buffer: 0 to 11 (R48). -/
def Memory.inFrame (m : Memory) : Bool := m.all (fun c => decide (c.1 < Config.dataLen))

end Sys2Proof.Machine
end

