-- ==== Sys2Proof/Machine/Ops.lean ====
section
/-! DEFINITION. The primitives of R13 and R14 over the state, error completion (R130), and the condition of the command
port (R35). -/

namespace Sys2Proof.Machine

/-- The 8-bit code of a status (R72). -/
def Status.code : Status → Byte
  | .ok => 0x00
  | .busTimeout => 0x01
  | .frameUnderrun => 0x02
  | .malformedFrame => 0x03
  | .illegalCommand => 0x04

/-- The bit the response port carries for a kind: 0 is `STATUS`, 1 is `VALUE` (R71). -/
def RespKind.bit : RespKind → BitVec 1
  | .status => 0
  | .value => 1

/-- `DirSet(v)`: drives the direction line and records it (R14, R39). -/
def dirSet (v : Bool) (s : State) : State := { s with dir := v, hist := s.hist ++ [.dir v] }

/-- `BusWrite(b)`: one step, complete when the byte has been fully transmitted (R14, R37). -/
def busWrite (b : Byte) (s : State) : State := { s with hist := s.hist ++ [.tx b] }

/-- `BusRead()`: removes and returns the oldest received byte; none while the stream is empty (R14, R38). -/
def busRead (s : State) : Option (Byte × State) :=
  match s.rxq with
  | [] => none
  | b :: q => some (b, { s with rxq := q, hist := s.hist ++ [.rx b] })

/-- `SinkWrite(b)`: one byte to the text sink (R14, R40). -/
def sinkWrite (b : Byte) (s : State) : State := { s with hist := s.hist ++ [.text b] }

/-- `Respond(k, v)`: completes the current command (R14). -/
def respond (k : RespKind) (v : Word) (s : State) : State :=
  { s with resp := some ⟨k, v⟩, hist := s.hist ++ [.resp ⟨k, v⟩], phase := .idle, cur := .none }

/-- `Respond(STATUS, zext_16(code))` (R71, R72). -/
def respondStatus (st : Status) (s : State) : State := respond .status (st.code.setWidth 16) s

/-- `raise Err(code)`, the block's only exception entry: error completion (R14, R124, R130). There is no return from it:
after any status the block is in `IDLE` (R134). -/
def raiseErr (st : Status) (s : State) : State := respondStatus st s

/-- The command port is open: `phase == IDLE` and `resp` is empty (R35). -/
def State.cmdEnabled (s : State) : Bool := decide (s.phase = .idle) && s.resp.isNone

/-- A command at the command port: accepted with effect `f` where the port is open (R106); otherwise the host waits and
nothing happens (R35). -/
def accept (f : State → State) (s : State) : Host.Outcome State Fault Refusal :=
  if s.cmdEnabled then .next (f s) else .next s

end Sys2Proof.Machine
end

