-- ==== Sys2Proof/Machine/Arbiter.lean ====
section
/-! DEFINITION. Direction control and request: `sample()` steps 1 to 3 (R77 to R84). -/

namespace Sys2Proof.Machine

/-- Step ASSERT (R78), the first step of `SAMPLE` and `DUMP`. -/
def stepAssert (k : CurCmd) (s : State) : State :=
  { dirSet true s with cur := k, phase := .reqTx }

/-- Step REQUEST (R79): enabled when the transmitter can take a byte; otherwise the block waits, holding the bus. -/
def stepRequest (s : State) : State :=
  if s.txReady then { busWrite Config.reqByte s with phase := .turn } else s

/-- Step RELEASE (R80); it does not block. -/
def stepRelease (s : State) : State :=
  { dirSet false s with rxCount := 0, phase := .rxData }

end Sys2Proof.Machine
end

