-- ==== Sys2Proof/Machine/Operands.lean ====
section
/-! DEFINITION. Operand forms. The only operand of the command set is the channel of a `GET_*` (R67): an index into the
cache. -/

namespace Sys2Proof.Machine

/-- `cache[i]` (R13, R21). -/
def Cache.get (c : Cache) : Channel → Word
  | .accX => c.accX
  | .accY => c.accY
  | .accZ => c.accZ
  | .gyroRoll => c.gyroRoll
  | .gyroPitch => c.gyroPitch
  | .gyroYaw => c.gyroYaw

/-- `cache[i] <- v` (R13). -/
def Cache.set (c : Cache) (ch : Channel) (v : Word) : Cache :=
  match ch with
  | .accX => { c with accX := v }
  | .accY => { c with accY := v }
  | .accZ => { c with accZ := v }
  | .gyroRoll => { c with gyroRoll := v }
  | .gyroPitch => { c with gyroPitch := v }
  | .gyroYaw => { c with gyroYaw := v }

/-- The cache whose register of each channel is `f` of it: six registers written in one step (R56, R108). -/
def Cache.ofChannels (f : Channel → Word) : Cache :=
  ⟨f .accX, f .accY, f .accZ, f .gyroRoll, f .gyroPitch, f .gyroYaw⟩

/-- `Respond(VALUE, cache[ch])`, what a `GET` does (R106). -/
def respondChannel (ch : Channel) (s : State) : State := respond .value (s.cache.get ch) s

end Sys2Proof.Machine
end

