-- ==== Sys2Proof/Machine/Dump.lean ====
section
/-! DEFINITION. The command `DUMP` and the text formatter (R116 to R123). -/

namespace Sys2Proof.Machine

/-- The digit `d` in ASCII: `0x30` to `0x39` (R119). -/
def digitByte (d : Nat) : Byte := BitVec.ofNat 8 (0x30 + d)

/-- The decimal digits of `n`, most significant first, no leading zeros, at most `fuel + 1` of them (R119). -/
def decDigits : Nat → Nat → List Byte
  | 0, n => [digitByte (n % 10)]
  | fuel + 1, n => if n < 10 then [digitByte n] else decDigits fuel (n / 10) ++ [digitByte (n % 10)]

/-- `Dec(v)` (R119): the decimal numeral of a signed 16-bit value; a magnitude has at most five digits. -/
def dec (v : Word) : List Byte :=
  if v.toInt < 0 then 0x2D#8 :: decDigits 4 v.toInt.natAbs else decDigits 4 v.toInt.natAbs

/-- `key(i)` (R118), byte for byte. -/
def dumpKey : Channel → List Byte
  | .accX => [0x41, 0x63, 0x63, 0x20, 0x58]
  | .accY => [0x41, 0x63, 0x63, 0x20, 0x59]
  | .accZ => [0x41, 0x63, 0x63, 0x20, 0x5A]
  | .gyroRoll => [0x47, 0x79, 0x72, 0x6F, 0x20, 0x52, 0x6F, 0x6C, 0x6C]
  | .gyroPitch => [0x47, 0x79, 0x72, 0x6F, 0x20, 0x50, 0x69, 0x74, 0x63, 0x68]
  | .gyroYaw => [0x47, 0x79, 0x72, 0x6F, 0x20, 0x59, 0x61, 0x77]

/-- What ends a line after its value: a comma after every value but the last, then `LF` (R117). -/
def lineEnd : Channel → List Byte
  | .accX | .accY | .accZ | .gyroRoll | .gyroPitch => [0x2C, 0x0A]
  | .gyroYaw => [0x0A]

/-- The line of one channel: `TAB QUOTE key QUOTE ":" SP Dec(c[i])`, then its end (R117). -/
def dumpLine (c : Cache) (ch : Channel) : List Byte :=
  [0x09, 0x22] ++ dumpKey ch ++ [0x22, 0x3A, 0x20] ++ dec (c.get ch) ++ lineEnd ch

/-- `DumpText(c)` (R117). -/
def dumpText (c : Cache) : List Byte :=
  [0x7B, 0x0A] ++ Channel.all.flatMap (dumpLine c) ++ [0x7D, 0x0A]

/-- The text is set once, when the dump's sample commits (R29, R108). -/
def startEmit (s : State) : State := { s with text := dumpText s.cache, tidx := 0, phase := .emit }

/-- Step EMIT (R120): the next byte where the sink can take one, the response after the last; otherwise it waits. -/
def stepEmit (s : State) : State :=
  match s.text[s.tidx]? with
  | some b => if s.sinkReady then { sinkWrite b s with tidx := s.tidx + 1 } else s
  | none => respondStatus .ok s

/-- `DUMP` (R116): its acceptance is ASSERT with `cur = DUMP` (R78, R106); the block's own steps do the rest. -/
def execDump (s : State) : Host.Outcome State Fault Refusal := accept (stepAssert .dump) s

end Sys2Proof.Machine
end

