-- ==== Sys2Proof/Machine/ByteOrder.lean ====
section
/-! DEFINITION. The byte-order converter (R92 to R96) and the local value of a channel (R51, R93). -/

namespace Sys2Proof.Machine

/-- `BSWAP16` (R92): the two bytes exchanged. -/
def bswap16 (x : Word) : Word := x.extractLsb' 0 8 ++ x.extractLsb' 8 8

/-- `local(i)`, by the second form of R93: `fbuf[2i] ++ fbuf[2i+1]`; the first is the swap of the raw slot (R51). -/
def localValue (m : Memory) (ch : Channel) : Word :=
  Memory.read m (2 * ch.index) ++ Memory.read m (2 * ch.index + 1)

end Sys2Proof.Machine
end

