-- ==== Sys2Proof/Machine/Scaler.lean ====
section
/-! DEFINITION. The fixed-point linear scaler (R97 to R105). -/

namespace Sys2Proof.Machine

/-- `tdiv(a, b)`, division truncating toward zero, by R97's formula; it is used with `b != 0` only. -/
def tdiv (a b : Int) : Int := a.sign * b.sign * ((a.natAbs / b.natAbs : Nat) : Int)

/-- `divisor(i)`: `SA` for accelerometer channels, `SG` for gyroscope channels (R98, R102). -/
def divisor (p : Config.Params) (ch : Channel) : Int :=
  match ch.kind with
  | .accelerometer => ((p.sa : Nat) : Int)
  | .gyroscope => ((p.sg : Nat) : Int)

/-- `SCALE(i, v)` (R98): the quotient, which fits 16 bits (R100). -/
def scale (p : Config.Params) (ch : Channel) (v : Word) : Word :=
  BitVec.ofInt 16 (tdiv v.toInt (divisor p ch))

/-- The six scaled values of a frame: for each channel the swap, then the division (R104, R108). -/
def scaledCache (p : Config.Params) (m : Memory) : Cache :=
  Cache.ofChannels (fun ch => scale p ch (localValue m ch))

end Sys2Proof.Machine
end

