-- ==== Sys2Proof/Machine/Commands.lean ====
section
/-! DEFINITION. The commands `SAMPLE` and `GET_*`, illegal codes, and step PROCESS (R106 to R115). -/

namespace Sys2Proof.Machine

/-- `SAMPLE` (R107): its acceptance is ASSERT with `cur = SAMPLE` (R78, R106); the block's own steps do the rest. -/
def execSample (s : State) : Host.Outcome State Fault Refusal := accept (stepAssert .sample) s

/-- `GET_ACC_X` (R109) -/
def execGetAccX (s : State) : Host.Outcome State Fault Refusal := accept (respondChannel .accX) s

/-- `GET_ACC_Y` (R110) -/
def execGetAccY (s : State) : Host.Outcome State Fault Refusal := accept (respondChannel .accY) s

/-- `GET_ACC_Z` (R111) -/
def execGetAccZ (s : State) : Host.Outcome State Fault Refusal := accept (respondChannel .accZ) s

/-- `GET_GYRO_ROLL` (R112) -/
def execGetGyroRoll (s : State) : Host.Outcome State Fault Refusal := accept (respondChannel .gyroRoll) s

/-- `GET_GYRO_PITCH` (R113) -/
def execGetGyroPitch (s : State) : Host.Outcome State Fault Refusal := accept (respondChannel .gyroPitch) s

/-- `GET_GYRO_YAW` (R114) -/
def execGetGyroYaw (s : State) : Host.Outcome State Fault Refusal := accept (respondChannel .gyroYaw) s

/-- An illegal code (R115): `ILLEGAL_COMMAND` at acceptance, nothing else changed. It is no row of the opcode table, so
it is no `Instr`: the decoder rejects it by name and the block answers it. -/
def execIllegal (s : State) : Host.Outcome State Fault Refusal := accept (raiseErr .illegalCommand) s

/-- The commit: all six registers in one step, and the model-only flag (R34, R56, R108). -/
def commit (p : Config.Params) (s : State) : State :=
  markValid { s with cache := scaledCache p s.fbuf }

/-- Step PROCESS (R108); it does not block. -/
def stepProcess (p : Config.Params) (s : State) : State :=
  if s.cur = .sample then respondStatus .ok (commit p s) else startEmit (commit p s)

end Sys2Proof.Machine
end

