-- ==== Sys2Proof/Machine/FrameParser.lean ====
section
/-! DEFINITION. The frame parser: `sample()` steps 4 and 5, and the bounded wait (R85 to R91). -/

namespace Sys2Proof.Machine

/-- What RXDATA does with the byte it read (R85). -/
def storeDataByte (b : Byte) (s : State) : State :=
  { s with
    fbuf := Memory.write s.fbuf s.rxCount b
    rxCount := s.rxCount + 1
    phase := if s.rxCount + 1 = Config.dataLen then .rxDelim else s.phase }

/-- Step RXDATA (R85): waits while the stream is empty (R87); every byte value is data (R89). -/
def stepRxData (s : State) : Host.Outcome State Fault Refusal :=
  match busRead s with
  | none => .next s
  | some (b, s') =>
    if s.rxCount < Config.dataLen then .next (storeDataByte b s') else .fault .frameBufferOffset

/-- Step RXDELIM (R86): one byte read and discarded, whatever it is (R76); waits while the stream is empty (R87). -/
def stepRxDelim (s : State) : State :=
  match busRead s with
  | none => s
  | some (_, s') => { s' with phase := .process }

/-- `Timeout()` is enabled: `BOUNDED_WAIT`, a receiving phase, an empty stream (R42, R91). -/
def timeoutEnabled (p : Config.Params) (s : State) : Bool :=
  p.boundedWait && (decide (s.phase = .rxData) || decide (s.phase = .rxDelim)) && s.rxq.isEmpty

/-- The status a timeout gives: no byte of the frame is `BUS_TIMEOUT`, 1 to 12 bytes `FRAME_UNDERRUN` (R91). -/
def timeoutStatus (s : State) : Status :=
  if s.phase = .rxData ∧ s.rxCount = 0 then .busTimeout else .frameUnderrun

/-- Step TIMEOUT (R91); where it is not enabled the event does not happen (R42). -/
def stepTimeout (p : Config.Params) (s : State) : State :=
  if timeoutEnabled p s then raiseErr (timeoutStatus s) s else s

end Sys2Proof.Machine
end

