-- ==== Sys2Proof/Machine/Block.lean ====
section
/-! DEFINITION. The block's own step, by phase (R15, R24, R107, R116). -/

namespace Sys2Proof.Machine

/-- The block has an enabled step (R79, R80, R85, R86, R108, R120); in `IDLE` it waits for a command. -/
def State.blockEnabled (s : State) : Bool :=
  match s.phase with
  | .idle => false
  | .reqTx => s.txReady
  | .turn => true
  | .rxData => !s.rxq.isEmpty
  | .rxDelim => !s.rxq.isEmpty
  | .process => true
  | .emit => decide (s.text.length ≤ s.tidx) || s.sinkReady

/-- One step of the block in its phase; where its primitive cannot complete it waits and the state is unchanged (R87,
R152). -/
def blockStep (p : Config.Params) (s : State) : Host.Outcome State Fault Refusal :=
  match s.phase with
  | .idle => .next s
  | .reqTx => .next (stepRequest s)
  | .turn => .next (stepRelease s)
  | .rxData => stepRxData s
  | .rxDelim => .next (stepRxDelim s)
  | .process => .next (stepProcess p s)
  | .emit => .next (stepEmit s)

end Sys2Proof.Machine
end

