-- ==== Sys2Proof/Machine/Dispatch.lean ====
section
/-! DEFINITION. The meaning of each command: one arm for each constructor of `Instr`. -/

namespace Sys2Proof.Machine

/-- A command at the command port (R106): acceptance, decoding and the first step of the command are one step. -/
def exec (i : Instr) (s : State) : Host.Outcome State Fault Refusal :=
  match i with
  | .sample => Sys2Proof.Machine.execSample s
  | .dump => Sys2Proof.Machine.execDump s
  | .getAccX => Sys2Proof.Machine.execGetAccX s
  | .getAccY => Sys2Proof.Machine.execGetAccY s
  | .getAccZ => Sys2Proof.Machine.execGetAccZ s
  | .getGyroRoll => Sys2Proof.Machine.execGetGyroRoll s
  | .getGyroPitch => Sys2Proof.Machine.execGetGyroPitch s
  | .getGyroYaw => Sys2Proof.Machine.execGetGyroYaw s

end Sys2Proof.Machine
end

