-- ==== Sys2Proof/Machine/Environment.lean ====
section
/-! DEFINITION. The environment's events (R35 to R43) that are no command: arriving bytes, the response taken, reset, the
readiness of the transmitter and of the text sink. -/

namespace Sys2Proof.Machine

/-- The byte an arrival puts on the stream: the responder's, or under contention a free value (R82). -/
def arrivedByte (b : Byte) (s : State) : Byte := if s.dir then Config.contentionByte s.draws else b

/-- `RxArrive(b)` (R38), always enabled; while `dir` is 1 it is contention (R82). -/
def rxArrive (b : Byte) (s : State) : State :=
  { noteContention s with
    rxq := s.rxq ++ [arrivedByte b s]
    draws := if s.dir then s.draws + 1 else s.draws }

/-- `TakeResp()` (R36): where `resp` is full it is returned to the host and emptied; none where it is not enabled. -/
def takeResp (s : State) : Option State :=
  match s.resp with
  | none => none
  | some r => some { s with resp := none, taken := s.taken ++ [r] }

/-- `Reset()` (R44, R141): all block state at its reset value; `rxq`, `contention` and the environment are untouched. -/
def resetEvent (s : State) : State :=
  { s with
    cache := Cache.zero
    phase := .idle
    cur := .none
    dir := false
    fbuf := []
    rxCount := 0
    text := []
    tidx := 0
    resp := none
    valid := false
    hist := s.hist ++ ((if s.dir then [.dir false] else []) ++ [.reset]) }

/-- The transmitter's readiness (R37, R154). -/
def setTxReady (v : Bool) (s : State) : State := { s with txReady := v }

/-- The text sink's readiness (R40, R154). -/
def setSinkReady (v : Bool) (s : State) : State := { s with sinkReady := v }

end Sys2Proof.Machine
end

