-- ==== Sys2Proof/Machine/Schedule.lean ====
section
/-! DEFINITION. Who moves and what a move does (R15, R19): the command port's fetch of a presented code, the host's acts,
and the environment's events. -/

namespace Sys2Proof.Machine

/-- `Cmd(c)` (R35, R106): the code is decoded and its command runs; an illegal code runs `ILLEGAL` (R115). -/
def acceptCommand (c : Byte) (s : State) : Host.Outcome State Fault Refusal :=
  match decode c with
  | .ok i => exec i s
  | .error _ => execIllegal s

/-- The host's next act, if it is enabled (R35, R36); otherwise the host waits: the act stays, none is dropped. -/
def hostMove (s : State) : Host.Outcome State Fault Refusal :=
  match s.hostq with
  | [] => .next s
  | .cmd c :: q => if s.cmdEnabled then acceptCommand c { s with hostq := q } else .next s
  | .takeResp :: q => .next ((takeResp { s with hostq := q }).getD s)

/-- One move. An event that is not enabled does not happen (R15, R42). -/
def moveWith (p : Config.Params) (m : Move) (s : State) : Host.Outcome State Fault Refusal :=
  match m with
  | .block => blockStep p s
  | .host => hostMove s
  | .rxArrive b => .next (rxArrive b s)
  | .timeout => .next (stepTimeout p s)
  | .reset => .next (resetEvent s)
  | .txReady v => .next (setTxReady v s)
  | .sinkReady v => .next (setSinkReady v s)

/-- Who moves where nothing is scheduled: the block if it has an enabled step, else the host.
DESIGN CHOICE: notes/assumptions/2.md. -/
def defaultMove (s : State) : Move := if s.blockEnabled then .block else .host

/-- One step of an instance with parameters `p`: the next scheduled move (R15). -/
def stepWith (p : Config.Params) (s : State) : Host.Outcome State Fault Refusal :=
  match s.sched with
  | [] => moveWith p (defaultMove s) s
  | m :: r => moveWith p m { s with sched := r }

/-- The host is about to present `c` and to move next: what presenting a command takes (R35). -/
def presentCommand (c : Byte) (s : State) : State :=
  { s with hostq := .cmd c :: s.hostq, sched := .host :: s.sched }

end Sys2Proof.Machine
end

