-- ==== Sys2Proof/Machine/Step.lean ====
section
/-! DEFINITION. The machine's step, and the placing of a command where the step fetches it. -/

namespace Sys2Proof.Machine

/-- One step of the machine: the block and its environment (R15), with the instance's parameters (R8, R9). -/
def step (s : State) : Host.Outcome State Fault Refusal := stepWith Config.params s

/-- The command word of a row stands at the command port and the host moves next, so that the next step runs it wherever
the port is open (R35); it is open at reset (R44). There is no instruction memory to place it in (R62). -/
def State.withFetchWord (s : State) (nbits w : Nat) : State := presentCommand (commandWord nbits w) s

end Sys2Proof.Machine
end

