-- ==== Sys2Proof/Machine/Assembler.lean ====
section
/-! DEFINITION. The assembler of command programs (R69, R70): from text to command words, and the canonical spelling of a
line. -/

namespace Sys2Proof.Machine

/-- Why a line of a command program is not accepted. -/
inductive AsmError where
  /-- the line is no command, pseudo-instruction or directive of R69 and R70 -/
  | unknownLine
  /-- the operand of `GET` is no channel: `GET 6` and `GET 7` are not accepted (R70) -/
  | notAChannel
  /-- the operand of `.cmd` is no byte (R69) -/
  | notAByte
  deriving DecidableEq, Repr

/-- The canonical spelling of each command (R65, R69). -/
def mnemonicOf : Instr → String
  | .sample => "SAMPLE"
  | .dump => "DUMP"
  | .getAccX => "GET_ACC_X"
  | .getAccY => "GET_ACC_Y"
  | .getAccZ => "GET_ACC_Z"
  | .getGyroRoll => "GET_GYRO_ROLL"
  | .getGyroPitch => "GET_GYRO_PITCH"
  | .getGyroYaw => "GET_GYRO_YAW"

/-- The names of the channels (R21, R70). -/
def channelName : Channel → String
  | .accX => "ACC_X"
  | .accY => "ACC_Y"
  | .accZ => "ACC_Z"
  | .gyroRoll => "GYRO_ROLL"
  | .gyroPitch => "GYRO_PITCH"
  | .gyroYaw => "GYRO_YAW"

/-- A space or a tab separates words and may indent a line. DESIGN CHOICE: notes/assumptions/12.md. -/
def isBlankChar (c : Char) : Bool := decide (c = ' ') || decide (c = '\t')

/-- A comment runs from `;` to the end of the line (R69). -/
def codePart : List Char → List Char
  | [] => []
  | c :: cs => if c = ';' then [] else c :: codePart cs

/-- The words of a line; `acc` is the word being read. -/
def wordsFrom : List Char → List Char → List (List Char)
  | acc, [] => if acc.isEmpty then [] else [acc]
  | acc, c :: cs =>
    if isBlankChar c then (if acc.isEmpty then wordsFrom [] cs else acc :: wordsFrom [] cs)
    else wordsFrom (acc ++ [c]) cs

/-- The lines of a text; `acc` is the line being read. -/
def linesFrom : List Char → List Char → List (List Char)
  | acc, [] => [acc]
  | acc, c :: cs => if c = '\n' then acc :: linesFrom [] cs else linesFrom (acc ++ [c]) cs

/-- The value of a decimal digit. -/
def decimalDigit (c : Char) : Option Nat :=
  if 48 ≤ c.toNat ∧ c.toNat ≤ 57 then some (c.toNat - 48) else none

/-- The value of a hexadecimal digit, in either case. -/
def hexDigit (c : Char) : Option Nat :=
  if 48 ≤ c.toNat ∧ c.toNat ≤ 57 then some (c.toNat - 48)
  else if 65 ≤ c.toNat ∧ c.toNat ≤ 70 then some (c.toNat - 55)
  else if 97 ≤ c.toNat ∧ c.toNat ≤ 102 then some (c.toNat - 87)
  else none

/-- The value of a numeral, most significant digit first, after the value `acc` read so far. -/
def readDigits (digit : Char → Option Nat) (base : Nat) : Nat → List Char → Option Nat
  | acc, [] => some acc
  | acc, c :: cs =>
    match digit c with
    | none => none
    | some d => readDigits digit base (acc * base + d) cs

/-- A decimal number. -/
def readDecimal (cs : List Char) : Option Nat :=
  if cs.isEmpty then none else readDigits decimalDigit 10 0 cs

/-- A number in `0x..` or decimal (R69). -/
def readNumber : List Char → Option Nat
  | '0' :: 'x' :: ds => if ds.isEmpty then none else readDigits hexDigit 16 0 ds
  | cs => readDecimal cs

/-- The command a word spells (R69). -/
def commandNamed (w : List Char) : Option Instr := Instr.all.find? (fun i => decide ((mnemonicOf i).toList = w))

/-- The channel a word names (R70). -/
def channelNamed (w : List Char) : Option Channel := Channel.all.find? (fun ch => decide ((channelName ch).toList = w))

/-- A line from its words (R69, R70). -/
def lineOfWords : List (List Char) → Except AsmError AsmLine
  | [] => .ok .blank
  | [w] =>
    match commandNamed w with
    | some i => .ok (.cmd i)
    | none => .error .unknownLine
  | [w, arg] =>
    if w = "GET".toList then
      match channelNamed arg with
      | some ch => .ok (.getName ch)
      | none =>
        match readDecimal arg with
        | some n => .ok (.getIndex n)
        | none => .error .notAChannel
    else if w = ".cmd".toList then
      match readNumber arg with
      | some n => .ok (.raw n)
      | none => .error .notAByte
    else .error .unknownLine
  | _ :: _ :: _ :: _ => .error .unknownLine

/-- One line of text, read. -/
def parseLine (cs : List Char) : Except AsmError AsmLine := lineOfWords (wordsFrom [] (codePart cs))

/-- The words a line emits: one command a line, and nothing for a line without one (R69, R70). -/
def lineCode : AsmLine → Except AsmError (List Byte)
  | .blank => .ok []
  | .cmd i => .ok [encode i]
  | .getIndex n =>
    match Channel.ofIndex n with
    | some ch => .ok [encode (Instr.get ch)]
    | none => .error .notAChannel
  | .getName ch => .ok [encode (Instr.get ch)]
  | .raw n => if rawByteWf n then .ok [BitVec.ofNat 8 n] else .error .notAByte

/-- The words of lines already read, in order; the first line that is not accepted stops it by name. -/
def linesCode : List AsmLine → Except AsmError (List Byte)
  | [] => .ok []
  | l :: ls =>
    match lineCode l with
    | .error e => .error e
    | .ok c =>
      match linesCode ls with
      | .error e => .error e
      | .ok cs => .ok (c ++ cs)

/-- The lines of a program, each read. -/
def parseLines : List (List Char) → Except AsmError (List AsmLine)
  | [] => .ok []
  | t :: ts =>
    match parseLine t with
    | .error e => .error e
    | .ok l =>
      match parseLines ts with
      | .error e => .error e
      | .ok ls => .ok (l :: ls)

/-- The assembler: from the text of a command program to its command words (R69, R70). -/
def assemble (text : List Char) : Except AsmError (List Byte) :=
  match parseLines (linesFrom [] text) with
  | .error e => .error e
  | .ok ls => linesCode ls

/-- The decimal digit of a value below 10. -/
def digitChar (d : Nat) : Char := Char.ofNat (48 + d)

/-- The hexadecimal digit of a value below 16. -/
def hexDigitChar (d : Nat) : Char := if d < 10 then Char.ofNat (48 + d) else Char.ofNat (55 + d)

/-- The canonical spelling of a well-formed line (R69, R70). -/
def renderLine : AsmLine → List Char
  | .blank => []
  | .cmd i => (mnemonicOf i).toList
  | .getIndex n => "GET ".toList ++ [digitChar n]
  | .getName ch => "GET ".toList ++ (channelName ch).toList
  | .raw n => ".cmd 0x".toList ++ [hexDigitChar (n / 16), hexDigitChar (n % 16)]

/-- A program's text, one line each. -/
def renderProgram (ls : List AsmLine) : List Char := ls.flatMap (fun l => renderLine l ++ ['\n'])

end Sys2Proof.Machine
end

