-- ==== Sys2Proof/Machine/CacheView.lean ====
section
/-! DEFINITION. The cache byte view `MemRead` and `MemWrite` (R47, R49), and the source's own data path over it (R51, R90),
which no command uses: it is what the block's frame buffer and commit are compared with. -/

namespace Sys2Proof.Machine

/-- The byte of a register at an offset of parity `odd`: the low byte at the even offset (R47). -/
def wordByte (v : Word) (odd : Bool) : Byte := if odd then v.extractLsb' 8 8 else v.extractLsb' 0 8

/-- A register with one of its bytes replaced (R47, R49). -/
def setWordByte (v : Word) (odd : Bool) (b : Byte) : Word :=
  if odd then b ++ v.extractLsb' 0 8 else v.extractLsb' 8 8 ++ b

/-- `MemRead(a, n)`, the bytes read zero-extended to 16 bits; defined for one byte at 0 to 11 and for two bytes at an even
offset of 0 to 10 (R49). -/
def cacheRead (c : Cache) (a n : Nat) : Except Fault Word :=
  match Channel.ofIndex (a / 2) with
  | none => .error .cacheViewAccess
  | some ch =>
    if n = 1 then .ok ((wordByte (c.get ch) (decide (a % 2 = 1))).setWidth 16)
    else if n = 2 ∧ a % 2 = 0 then .ok (wordByte (c.get ch) true ++ wordByte (c.get ch) false)
    else .error .cacheViewAccess

/-- `MemWrite(a, n, v)`, defined where `MemRead` is (R49). -/
def cacheWrite (c : Cache) (a n : Nat) (v : Word) : Except Fault Cache :=
  match Channel.ofIndex (a / 2) with
  | none => .error .cacheViewAccess
  | some ch =>
    if n = 1 then .ok (c.set ch (setWordByte (c.get ch) (decide (a % 2 = 1)) (v.extractLsb' 0 8)))
    else if n = 2 ∧ a % 2 = 0 then
      .ok (c.set ch (setWordByte (setWordByte (c.get ch) false (v.extractLsb' 0 8)) true (v.extractLsb' 8 8)))
    else .error .cacheViewAccess

/-- The source's step 4: bytes read into the cache's raw memory, in arrival order from offset `a` (R90). -/
def sourceReceive : Cache → Nat → List Byte → Except Fault Cache
  | c, _, [] => .ok c
  | c, a, b :: bs =>
    match cacheWrite c a 1 (b.setWidth 16) with
    | .error e => .error e
    | .ok c' => sourceReceive c' (a + 1) bs

/-- The source's steps 6 and 7 on one channel, in place: the two bytes swapped, then the division (R51, R108). -/
def sourceConvert (p : Config.Params) (c : Cache) (ch : Channel) : Except Fault Cache :=
  match cacheRead c (2 * ch.index) 2 with
  | .error e => .error e
  | .ok v => cacheWrite c (2 * ch.index) 2 (scale p ch (bswap16 v))

/-- The source's steps 6 and 7 on each channel of a list, in order. -/
def sourceConvertAll (p : Config.Params) : Cache → List Channel → Except Fault Cache
  | c, [] => .ok c
  | c, ch :: chs =>
    match sourceConvert p c ch with
    | .error e => .error e
    | .ok c' => sourceConvertAll p c' chs

/-- The source's data path from the data bytes of a frame to the cache (R90). -/
def sourceSample (p : Config.Params) (c : Cache) (bytes : List Byte) : Except Fault Cache :=
  match sourceReceive c 0 bytes with
  | .error e => .error e
  | .ok c' => sourceConvertAll p c' Channel.all

end Sys2Proof.Machine
end

