-- ==== Sys2Proof/Safety.lean ====
section
/-! DEFINITION. What claims are made of: the block's invariants (R26, R28, R44, R81), the protocol that the observation
history follows (R59, R72, R121), runs, and the end of a run with its observable result (R155). -/

namespace Sys2Proof.Machine

/-- `k` steps of an instance with parameters `p`, stopping at the first fault or refusal. -/
def runWith (p : Config.Params) : Nat → State → Host.Outcome State Fault Refusal
  | 0, s => .next s
  | k + 1, s =>
    match stepWith p s with
    | .next t => runWith p k t
    | .fault r => .fault r
    | .refused r => .refused r

/-- The relations between the block's registers that hold in every reachable state. -/
structure BlockInv (s : State) : Prop where
  /-- `dir == 1` exactly in `REQ_TX` and `TURN` (R81) -/
  owns : s.dir = true ↔ (s.phase = .reqTx ∨ s.phase = .turn)
  /-- `cur` is `NONE` exactly in `IDLE` (R26) -/
  running : s.cur = .none ↔ s.phase = .idle
  /-- in `RX_DATA` the count is 0 to 11 (R28) -/
  receiving : s.phase = .rxData → s.rxCount < Config.dataLen
  /-- after the 12th data byte the count is 12 (R28, R85) -/
  framed : s.phase = .rxDelim ∨ s.phase = .process → s.rxCount = Config.dataLen
  /-- the count never exceeds 12 (R28) -/
  counted : s.rxCount ≤ Config.dataLen
  /-- in `EMIT` a `DUMP` is writing the text of the cache (R24, R29, R120) -/
  emitting : s.phase = .emit → s.cur = .dump ∧ s.text = dumpText s.cache ∧ s.tidx ≤ s.text.length
  /-- a response stands only while the block is idle (R30, R35) -/
  answered : s.resp.isSome = true → s.phase = .idle
  /-- the frame buffer is in canonical form -/
  canonical : Memory.wf s.fbuf = true
  /-- the frame buffer lists offsets 0 to 11 only (R48) -/
  inFrame : Memory.inFrame s.fbuf = true
  /-- before the first successful sample the cache holds zeros (R34, R44) -/
  unsampled : s.valid = false → s.cache = Cache.zero

/-- Where a command stands, as far as the observation history tells (R59, R107, R116). -/
inductive Stage where
  /-- no command in progress -/
  | idle
  /-- `Dir(1)` seen -/
  | owned
  /-- the request byte seen -/
  | requested
  /-- `Dir(0)` seen with no request byte: only `Reset` may follow (R141) -/
  | aborted
  /-- `Dir(0)` and then `n` bytes of the frame seen -/
  | receiving (n : Nat)
  /-- text bytes seen after the 13th byte of the frame -/
  | texting
  deriving DecidableEq, Repr

/-- The response a status makes (R71). -/
def statusResponse (st : Status) : Response := ⟨.status, st.code.setWidth 16⟩

/-- What may be answered with no sample running: a value (R109 to R114) or `ILLEGAL_COMMAND` (R115). -/
def immediateResponse (r : Response) : Bool :=
  decide (r.kind = .value) || decide (r = statusResponse .illegalCommand)

/-- The status after `n` bytes of a frame: `OK` after 13, else the timeout's (R125 to R127). -/
def frameStatus (n : Nat) : Status :=
  if n = Config.frameLen then .ok else if n = 0 then .busTimeout else .frameUnderrun

/-- The stage after an event, or none where the event may not happen there (R59, R74, R121, R125 to R129, R141). -/
def stageAfter : Stage → HistEvent → Option Stage
  | .idle, .dir true => some .owned
  | .idle, .resp r => if immediateResponse r then some .idle else none
  | .idle, .reset => some .idle
  | .owned, .tx b => if b = Config.reqByte then some .requested else none
  | .owned, .dir false => some .aborted
  | .aborted, .reset => some .idle
  | .requested, .dir false => some (.receiving 0)
  | .receiving n, .rx _ => if n < Config.frameLen then some (.receiving (n + 1)) else none
  | .receiving n, .resp r => if r = statusResponse (frameStatus n) then some .idle else none
  | .receiving n, .text _ => if n = Config.frameLen then some .texting else none
  | .receiving _, .reset => some .idle
  | .texting, .text _ => some .texting
  | .texting, .resp r => if r = statusResponse .ok then some .idle else none
  | .texting, .reset => some .idle
  | _, _ => none

/-- The stage after a history. -/
def stageOf : Stage → List HistEvent → Option Stage
  | g, [] => some g
  | g, e :: es =>
    match stageAfter g e with
    | some g' => stageOf g' es
    | none => none

/-- The stage a phase stands for, with the counts of bytes read and of text bytes written (R24, R28, R29). -/
def stageAt (ph : Phase) (rxCount tidx : Nat) : Stage :=
  match ph with
  | .idle => .idle
  | .reqTx => .owned
  | .turn => .requested
  | .rxData => .receiving rxCount
  | .rxDelim => .receiving Config.dataLen
  | .process => .receiving Config.frameLen
  | .emit => if tidx = 0 then .receiving Config.frameLen else .texting

/-- The stage where the block stands. -/
def stageOfPhase (s : State) : Stage := stageAt s.phase s.rxCount s.tidx

/-- The whole history follows the protocol and ends where the block stands. -/
def HistFollowsProtocol (s : State) : Prop := stageOf .idle s.hist = some (stageOfPhase s)

/-- The move the next step makes. -/
def nextMove (s : State) : Move :=
  match s.sched with
  | [] => defaultMove s
  | m :: _ => m

/-- How many request bytes a history holds (R121). -/
def txCount (h : List HistEvent) : Nat := h.countP (fun e => match e with | .tx _ => true | _ => false)

/-- A state with the model-only flags replaced (R34). -/
def withFlags (v c : Bool) (s : State) : State := { s with valid := v, contention := c }

/-- The value of a string of ASCII digits after the value `acc` read so far. -/
def digitsValue (acc : Nat) (bs : List Byte) : Nat := bs.foldl (fun n b => n * 10 + (b.toNat - 0x30)) acc

/-- The value a run of the block alone gives channel `ch` from the first 12 bytes of a frame (R93, R98). -/
def frameValue (p : Config.Params) (f : List Byte) (ch : Channel) : Word :=
  scale p ch (f.getD (2 * ch.index) 0 ++ f.getD (2 * ch.index + 1) 0)

/-- What R109 to R114 say of one `GET_*`: its code, its answer at an open port, what it leaves alone (all but `resp`, `hist`
and the idle `phase` and `cur`), its answer before any sample and after a failed one, and that it repeats. -/
structure GetMeaning (i : Instr) (ch : Channel) (code : Byte) : Prop where
  decodes : decode code = .ok i
  answers : ∀ s, s.phase = .idle → s.resp = none → exec i s = .next { s with
    resp := some ⟨.value, s.cache.get ch⟩, hist := s.hist ++ [.resp ⟨.value, s.cache.get ch⟩], phase := .idle, cur := .none }
  beforeSample : ∀ s, BlockInv s → s.phase = .idle → s.resp = none → s.valid = false →
    ∃ t, exec i s = .next t ∧ t.resp = some ⟨.value, 0x0000⟩
  afterTimeout : ∀ p s, timeoutEnabled p s = true →
    ∃ t, exec i { stepTimeout p s with resp := none } = .next t ∧ t.resp = some ⟨.value, s.cache.get ch⟩
  repeats : ∀ s, s.phase = .idle → s.resp = none →
    ∃ t u, exec i s = .next t ∧ exec i { t with resp := none } = .next u ∧ u.resp = t.resp

/-- The end of a run of a command program (R155): every command accepted (the host has no code left to present), the block
idle, the response register empty. The host may still mean to take a response: R155 asks nothing of that, since a command
that a reset abandons gets none (R141). -/
def RunEnded (s : State) : Prop := (∀ c, HostAct.cmd c ∉ s.hostq) ∧ s.phase = .idle ∧ s.resp = none

/-- The observable result of a run (R155). -/
structure Observation where
  cache : Cache
  taken : List Response
  text : List Byte
  bus : List Byte
  direction : List Bool
  rxq : List Byte
  deriving DecidableEq, Repr

/-- The bytes written to the text sink (R40). -/
def textOf (h : List HistEvent) : List Byte := h.filterMap (fun e => match e with | .text b => some b | _ => none)

/-- The bytes written to the bus (R37). -/
def busOf (h : List HistEvent) : List Byte := h.filterMap (fun e => match e with | .tx b => some b | _ => none)

/-- The direction-line events (R39). -/
def directionOf (h : List HistEvent) : List Bool := h.filterMap (fun e => match e with | .dir v => some v | _ => none)

/-- What a run that has ended shows (R155). -/
def observe (s : State) : Observation :=
  ⟨s.cache, s.taken, textOf s.hist, busOf s.hist, directionOf s.hist, s.rxq⟩

/-- A claim about a run takes this as a premise: no contention has happened (R82, R155). -/
def NoContention (s : State) : Prop := s.contention = false

end Sys2Proof.Machine
end

