-- ==== Sys2Proof/Certificates/Slice0/Obligations.lean ====
section
/-! DEFINITION. The statements for the provers. `p` ranges over every instance of the block (SA, SG, BOUNDED_WAIT), `s`
over every state; a step of an instance is `stepWith p`, and `step` is that of the instance the spec leaves open. -/

open Sys2Proof Sys2Proof.Machine

/-- R65 and R66 (the spec's decisions D3, D4): the eight command words, written out bit by bit, and words next to them that
are illegal. -/
def Obligations.CommandWordsDecode : Prop :=
  decode 0b00000001 = .ok .sample ∧ decode 0b00000010 = .ok .dump ∧
  decode 0b00010000 = .ok .getAccX ∧ decode 0b00010001 = .ok .getAccY ∧ decode 0b00010010 = .ok .getAccZ ∧
  decode 0b00010011 = .ok .getGyroRoll ∧ decode 0b00010100 = .ok .getGyroPitch ∧ decode 0b00010101 = .ok .getGyroYaw ∧
  decode 0b00000000 = .error (.illegal 0x00) ∧ decode 0b00000011 = .error (.illegal 0x03) ∧
  decode 0b00001111 = .error (.illegal 0x0F) ∧ decode 0b00010110 = .error (.illegal 0x16) ∧
  decode 0b00010111 = .error (.illegal 0x17) ∧ decode 0b00011000 = .error (.illegal 0x18) ∧
  decode 0b00111100 = .error (.illegal 0x3C) ∧ decode 0b10000001 = .error (.illegal 0x81) ∧
  decode 0b10010001 = .error (.illegal 0x91) ∧ decode 0b11111111 = .error (.illegal 0xFF)

/-- R66 (the spec's decisions D3, D4): a code decodes to a command exactly where it is that command's word; every other code
is illegal by name, and there are 248 of them. -/
def Obligations.DecodeInvertsEncode : Prop :=
  (∀ (c : Byte) (i : Instr), decode c = .ok i ↔ c = encode i) ∧
  (∀ c : Byte, (∀ i : Instr, c ≠ encode i) → decode c = .error (.illegal c)) ∧
  (List.range 256).countP (fun n => (decodeTableWord 8 n).isNone) = 248

/-- R68 (the spec's decision D3): a sequence of words is a sequence of commands one byte each; decoding a program gives a
list of commands exactly where the words are theirs. -/
def Obligations.ProgramWordsRoundTrip : Prop :=
  ∀ (cs : List Byte) (is : List Instr), decodeProgram cs = .ok is ↔ cs = is.map encode

/-- R69 and R70 (the spec's decision D3): assembling the canonical text of well-formed lines gives their words, and the words
of any list of commands decode to it again. The words of each form are said by `PseudoInstructionWords`. -/
def Obligations.AssemblerRoundTrip : Prop :=
  (∀ ls : List AsmLine, (∀ l ∈ ls, l.wf = true) →
    ∃ cs, linesCode ls = .ok cs ∧ assemble (renderProgram ls) = .ok cs) ∧
  (∀ is : List Instr, ∃ cs, assemble (renderProgram (is.map .cmd)) = .ok cs ∧ decodeProgram cs = .ok is)

/-- R69 and R70 (the spec's decision D3): `GET <ch>` is the code 0x10 + ch for 0 to 5 and not accepted otherwise; a channel's
name stands for its index; `.cmd` emits one raw byte. -/
def Obligations.PseudoInstructionWords : Prop :=
  (∀ n, n ≤ 5 → lineCode (.getIndex n) = .ok [BitVec.ofNat 8 (0x10 + n)]) ∧
  (∀ n, 5 < n → lineCode (.getIndex n) = .error .notAChannel) ∧
  (∀ ch, lineCode (.getName ch) = lineCode (.getIndex ch.index)) ∧
  (∀ n, n ≤ 255 → lineCode (.raw n) = .ok [BitVec.ofNat 8 n]) ∧
  (∀ n, 255 < n → lineCode (.raw n) = .error .notAByte)

/-- R69 (the spec's decision D3): a comment runs from `;` to the end of the line. That blanks may stand before and after the
command is the model's choice (notes/assumptions/12.md). -/
def Obligations.CommentsAndBlanksIgnored : Prop :=
  ∀ (l : AsmLine) (before after comment : List Char), l.wf = true →
    (∀ c ∈ before, isBlankChar c = true) → (∀ c ∈ after, isBlankChar c = true) →
    parseLine (before ++ renderLine l ++ after ++ ';' :: comment) = .ok l

/-- R78: ASSERT, what `SAMPLE` and `DUMP` do at an open port; `dir` was 0 before it in every state that satisfies the
invariant; the rule's example from reset. That `exec` answers the unchanged state at a closed port, where R78 says only that
the step is not enabled, is the model's reading (notes/assumptions/11.md). -/
def Obligations.AssertTakesBus : Prop :=
  (∀ s : State, s.phase = .idle → s.resp = none →
    exec .sample s = .next { s with dir := true, hist := s.hist ++ [.dir true], cur := .sample, phase := .reqTx } ∧
    exec .dump s = .next { s with dir := true, hist := s.hist ++ [.dir true], cur := .dump, phase := .reqTx }) ∧
  (∀ s : State, ¬ (s.phase = .idle ∧ s.resp = none) → exec .sample s = .next s ∧ exec .dump s = .next s) ∧
  (∀ s : State, BlockInv s → s.phase = .idle → s.dir = false) ∧
  (∃ t, step (presentCommand 0x01 State.reset) = .next t ∧ t.dir = true ∧ t.cur = .sample ∧ t.phase = .reqTx)

/-- R79: REQUEST writes the one byte 0x3C where the transmitter can take it, whatever the command, the cache and the
parameters; no other step of the block writes to the bus. Otherwise it waits holding the bus; that a waiting block's step
answers the unchanged state is the model's choice (notes/assumptions/7.md). -/
def Obligations.RequestSendsOneByte : Prop :=
  (∀ (p : Config.Params) (s : State), s.phase = .reqTx → s.txReady = true →
    blockStep p s = .next { s with hist := s.hist ++ [.tx 0x3C], phase := .turn }) ∧
  (∀ (p : Config.Params) (s : State), s.phase = .reqTx → s.txReady = false → blockStep p s = .next s) ∧
  (∀ (p : Config.Params) (s t : State), blockStep p s = .next t →
    txCount t.hist = txCount s.hist + (if s.phase = .reqTx ∧ s.txReady = true then 1 else 0))

/-- R80 (its order after the request is the spec's decision D7): RELEASE, always enabled in `TURN`; the receive stream is not
flushed. -/
def Obligations.ReleaseYieldsBus : Prop :=
  ∀ (p : Config.Params) (s : State), s.phase = .turn → blockStep p s =
    .next { s with dir := false, hist := s.hist ++ [.dir false], rxCount := 0, phase := .rxData }

/-- R85: RXDATA takes the oldest byte, whatever its value, to offset `rx_count` of the frame buffer, and every other offset
reads as before. It waits on an empty stream, where a bounded wait may end in a timeout; that a waiting block's step answers
the unchanged state is the model's choice (notes/assumptions/7.md). -/
def Obligations.RxDataStoresByte : Prop :=
  (∀ (p : Config.Params) (s : State) (b : Byte) (q : List Byte), s.phase = .rxData → s.rxq = b :: q →
    s.rxCount < 12 → Memory.wf s.fbuf = true →
    ∃ t, blockStep p s = .next t ∧
      (∀ k, Memory.read t.fbuf k = if k = s.rxCount then b else Memory.read s.fbuf k) ∧
      t = { s with rxq := q, hist := s.hist ++ [.rx b], fbuf := t.fbuf, rxCount := s.rxCount + 1,
                   phase := if s.rxCount + 1 = 12 then .rxDelim else .rxData }) ∧
  (∀ (p : Config.Params) (s : State), s.phase = .rxData → s.rxq = [] →
    blockStep p s = .next s ∧ (p.boundedWait = true → (stepTimeout p s).phase = .idle))

/-- R86: RXDELIM takes one byte, whatever its value, and moves to `PROCESS`; bytes after it stay on the stream. It waits on an
empty stream, where a bounded wait may end in a timeout; that a waiting block's step answers the unchanged state is the
model's choice (notes/assumptions/7.md). -/
def Obligations.RxDelimDiscardsOneByte : Prop :=
  (∀ (p : Config.Params) (s : State) (b : Byte) (q : List Byte), s.phase = .rxDelim → s.rxq = b :: q →
    blockStep p s = .next { s with rxq := q, hist := s.hist ++ [.rx b], phase := .process }) ∧
  (∀ (p : Config.Params) (s : State), s.phase = .rxDelim → s.rxq = [] →
    blockStep p s = .next s ∧ (p.boundedWait = true → (stepTimeout p s).phase = .idle))

/-- R87 and R140: with `BOUNDED_WAIT = false`, in `RX_DATA` or `RX_DELIM` with an empty stream the block has no enabled step,
and it waits for ever while no byte arrives (and no reset happens): after any number of steps all state of the block but
`resp` is as before, so no command has been accepted; and under the invariant no response waits, so the host has taken none
and presented none. Only readiness and the schedule may differ. That a step of a waiting block answers the unchanged state,
and that steps are scheduled as they are, is the model's choice (notes/assumptions/7.md, notes/assumptions/2.md). -/
def Obligations.UnansweredSampleWaits : Prop :=
  ∀ (p : Config.Params) (n : Nat) (s : State), p.boundedWait = false → (s.phase = .rxData ∨ s.phase = .rxDelim) →
    s.rxq = [] → (∀ m ∈ s.sched, m ≠ .reset ∧ ∀ b, m ≠ .rxArrive b) →
    s.blockEnabled = false ∧
    ∃ t, runWith p n s = .next t ∧
      t = { s with resp := t.resp, hostq := t.hostq, taken := t.taken, txReady := t.txReady, sinkReady := t.sinkReady,
                   sched := t.sched } ∧
      (BlockInv s → t.resp = none ∧ s.resp = none ∧ t.hostq = s.hostq ∧ t.taken = s.taken)

/-- R42 and R91 (the spec's decision D11): a timeout, where it is enabled, ends the command with `BUS_TIMEOUT` if no byte of
the frame has been read and `FRAME_UNDERRUN` otherwise, and changes nothing else; where it is not enabled it does not happen.
That a scheduled move that is not enabled is taken off the schedule, with all else unchanged, is the model's choice
(notes/assumptions/2.md). -/
def Obligations.TimeoutEndsCommand : Prop :=
  (∀ (p : Config.Params) (s : State) (r : List Move), s.sched = .timeout :: r → p.boundedWait = true →
    (s.phase = .rxData ∨ s.phase = .rxDelim) → s.rxq = [] →
    stepWith p s = .next { s with
      sched := r, phase := .idle, cur := .none,
      resp := some ⟨.status, if s.phase = .rxData ∧ s.rxCount = 0 then 0x0001 else 0x0002⟩,
      hist := s.hist ++ [.resp ⟨.status, if s.phase = .rxData ∧ s.rxCount = 0 then 0x0001 else 0x0002⟩] }) ∧
  (∀ (p : Config.Params) (s : State) (r : List Move), s.sched = .timeout :: r →
    ¬ (p.boundedWait = true ∧ (s.phase = .rxData ∨ s.phase = .rxDelim) ∧ s.rxq = []) →
    stepWith p s = .next { s with sched := r })

/-- R132, U14 (the spec's decision D11): in a bounded wait on an empty stream a timeout and an arriving byte may each come
first. After the byte a timeout is not enabled; after the timeout the byte waits for the next sample. That a move that is not
enabled leaves the state unchanged is the model's choice (notes/assumptions/2.md). -/
def Obligations.TimeoutAndArrivalEitherOrder : Prop :=
  ∀ (p : Config.Params) (s : State) (b : Byte), p.boundedWait = true → (s.phase = .rxData ∨ s.phase = .rxDelim) →
    s.rxq = [] → s.dir = false →
    (∃ t, moveWith p (.rxArrive b) s = .next t ∧ t.rxq = [b] ∧ moveWith p .timeout t = .next t) ∧
    (∃ t u, moveWith p .timeout s = .next t ∧ t.phase = .idle ∧ moveWith p (.rxArrive b) t = .next u ∧ u.rxq = [b] ∧
      u.resp = t.resp)

/-- R92: the two bytes of the operand are exchanged, a value of equal bytes is unchanged, and the rule's example. -/
def Obligations.ByteSwapExchangesBytes : Prop :=
  (∀ x : Word, bswap16 x = x.extractLsb' 0 8 ++ x.extractLsb' 8 8) ∧
  (∀ (x : Word) (i : Nat), i < 16 → (bswap16 x).getLsbD i = x.getLsbD (if i < 8 then i + 8 else i - 8)) ∧
  (∀ x : Word, x.extractLsb' 0 8 = x.extractLsb' 8 8 → bswap16 x = x) ∧
  bswap16 0x1234 = 0x3412

/-- R94 and R96 (inferences the spec draws from R92): swapping twice gives the pattern back; the four named inputs. -/
def Obligations.ByteSwapInvolution : Prop :=
  (∀ x : Word, bswap16 (bswap16 x) = x) ∧
  bswap16 0x0000 = 0x0000 ∧ bswap16 0xFFFF = 0xFFFF ∧ bswap16 0x8000 = 0x0080 ∧ bswap16 0x7FFF = 0xFF7F

/-- R93: both forms of a channel's local value agree; the first is the raw slot of the source's cache memory, read
little-endian and swapped; no byte of another channel reaches it; the delimiter byte is not converted. -/
def Obligations.LocalValueOfFrame : Prop :=
  (∀ (m : Memory) (ch : Channel),
    localValue m ch = Memory.read m (2 * ch.index) ++ Memory.read m (2 * ch.index + 1) ∧
    localValue m ch = bswap16 (Memory.read m (2 * ch.index + 1) ++ Memory.read m (2 * ch.index))) ∧
  (∀ (c : Cache) (bytes : List Byte) (ch : Channel), bytes.length = 12 →
    ∃ c', sourceReceive c 0 bytes = .ok c' ∧
      cacheRead c' (2 * ch.index) 2 = .ok (bytes.getD (2 * ch.index + 1) 0 ++ bytes.getD (2 * ch.index) 0)) ∧
  (∀ (m : Memory) (ch : Channel) (k : Nat) (b : Byte), Memory.wf m = true → k ≠ 2 * ch.index → k ≠ 2 * ch.index + 1 →
    localValue (Memory.write m k b) ch = localValue m ch) ∧
  (∀ s : State, (stepRxDelim s).fbuf = s.fbuf)

/-- R47: offsets 0 to 11 of the cache byte view hold the six registers, the low byte of each at its even offset. That an
access at another offset is a fault is the model's choice (notes/assumptions/9.md). -/
def Obligations.CacheByteViewLittleEndian : Prop :=
  (∀ (c : Cache) (ch : Channel),
    cacheRead c (2 * ch.index) 1 = .ok (((c.get ch).extractLsb' 0 8).setWidth 16) ∧
    cacheRead c (2 * ch.index + 1) 1 = .ok (((c.get ch).extractLsb' 8 8).setWidth 16)) ∧
  (∀ (c : Cache) (a : Nat), 12 ≤ a → cacheRead c a 1 = .error .cacheViewAccess)

/-- R49: where `MemRead` and `MemWrite` are defined, what a write leaves at every offset, and that a two-byte read is
little-endian and gives the register; everywhere else both are undefined (the model's fault, notes/assumptions/9.md). -/
def Obligations.CacheByteViewReadAfterWrite : Prop :=
  (∀ (c : Cache) (a : Nat) (v : Word), a < 12 →
    ∃ c', cacheWrite c a 1 v = .ok c' ∧
      ∀ j, cacheRead c' j 1 = if j = a then .ok ((v.extractLsb' 0 8).setWidth 16) else cacheRead c j 1) ∧
  (∀ (c : Cache) (a : Nat) (v : Word), a < 12 → a % 2 = 0 →
    ∃ c', cacheWrite c a 2 v = .ok c' ∧
      ∀ j, cacheRead c' j 1 =
        if j = a then .ok ((v.extractLsb' 0 8).setWidth 16)
        else if j = a + 1 then .ok ((v.extractLsb' 8 8).setWidth 16)
        else cacheRead c j 1) ∧
  (∀ (c : Cache) (ch : Channel), cacheRead c (2 * ch.index) 2 = .ok (c.get ch)) ∧
  (∀ (c : Cache) (a n : Nat) (v : Word), ¬ (n = 1 ∧ a < 12) → ¬ (n = 2 ∧ a < 12 ∧ a % 2 = 0) →
    cacheRead c a n = .error .cacheViewAccess ∧ cacheWrite c a n v = .error .cacheViewAccess)

/-- R90 (an inference of the spec), C1: the source's data path, which reads the bytes into the cache's own memory and swaps
and scales them in place, ends with the cache that the block's frame buffer and commit give, for every cache before. -/
def Obligations.InPlaceDataPathEquivalence : Prop :=
  ∀ (p : Config.Params) (c : Cache) (bytes : List Byte) (m : Memory), bytes.length = 12 →
    (∀ k, k < 12 → Memory.read m k = bytes.getD k 0) →
    sourceSample p c bytes = .ok (scaledCache p m)

/-- R97: the division is the signs times the floor of the quotient of the magnitudes, so it truncates toward zero; the
rule's examples. -/
def Obligations.TruncatingDivision : Prop :=
  (∀ a b : Int, b ≠ 0 → tdiv a b = a.sign * b.sign * ⌊((|a| : Int) : ℚ) / ((|b| : Int) : ℚ)⌋) ∧
  (∀ a b : Int, b ≠ 0 → tdiv a b = Int.tdiv a b) ∧
  tdiv 7 2 = 3 ∧ tdiv (-7) 2 = -3 ∧ tdiv (-1) 2 = 0

/-- R98: a scaled value, read as a signed integer, is the truncated quotient of the local value by `SA` for channels 0 to 2
and by `SG` for channels 3 to 5, with nothing lost to the 16 bits; the divisor is never zero; the rule's
example. -/
def Obligations.ScaleDividesBySensitivity : Prop :=
  (∀ (p : Config.Params) (ch : Channel) (v : Word),
    (scale p ch v).toInt = tdiv v.toInt (if ch.index ≤ 2 then ((p.sa : Nat) : Int) else ((p.sg : Nat) : Int))) ∧
  (∀ (p : Config.Params) (ch : Channel), divisor p ch ≠ 0) ∧
  (∀ (sg : ℕ+) (w : Bool), (scale ⟨2, sg, w⟩ .accX (BitVec.ofInt 16 (-7))).toInt = -3)

/-- R100 and R101 (inferences the spec draws from R97 and R98): the range, the sign symmetry, and the divisors at the ends
of the range. -/
def Obligations.ScaleRangeAndSymmetry : Prop :=
  (∀ (p : Config.Params) (ch : Channel) (v : Word), (scale p ch v).toInt.natAbs ≤ v.toInt.natAbs) ∧
  (∀ (p : Config.Params) (ch : Channel) (v : Word), v ≠ 0x8000 → scale p ch (-v) = -(scale p ch v)) ∧
  (∀ (p : Config.Params) (ch : Channel) (v : Word), (v.toInt.natAbs : Int) < divisor p ch → scale p ch v = 0) ∧
  (∀ (p : Config.Params) (ch : Channel) (v : Word), divisor p ch = 1 → scale p ch v = v) ∧
  (∀ (p : Config.Params) (ch : Channel) (v : Word), divisor p ch = 32768 →
    scale p ch v = if v = 0x8000 then 0xFFFF else 0x0000)

/-- R108 (the spec's decision D8): PROCESS commits the six scaled local values in one step and sets `valid`; then `SAMPLE`
answers `OK`, and any other command starts the text of the new cache. Nothing else changes. -/
def Obligations.ProcessCommitsFrame : Prop :=
  ∀ (p : Config.Params) (s : State), s.phase = .process →
    ∃ c : Cache, (∀ ch, c.get ch = scale p ch (localValue s.fbuf ch)) ∧
      (s.cur = .sample → blockStep p s = .next { s with
        cache := c, valid := true, resp := some ⟨.status, 0x0000⟩, hist := s.hist ++ [.resp ⟨.status, 0x0000⟩],
        phase := .idle, cur := .none }) ∧
      (s.cur ≠ .sample → blockStep p s = .next { s with
        cache := c, valid := true, text := dumpText c, tidx := 0, phase := .emit })

/-- R109 to R114: the six `GET_*` commands (`GET_ACC_X`, `GET_ACC_Y`, `GET_ACC_Z`, `GET_GYRO_ROLL`, `GET_GYRO_PITCH`,
`GET_GYRO_YAW`), each with its code and its channel. -/
def Obligations.GetCommandsAnswerRegister : Prop :=
  GetMeaning .getAccX .accX 0x10 ∧ GetMeaning .getAccY .accY 0x11 ∧ GetMeaning .getAccZ .accZ 0x12 ∧
  GetMeaning .getGyroRoll .gyroRoll 0x13 ∧ GetMeaning .getGyroPitch .gyroPitch 0x14 ∧
  GetMeaning .getGyroYaw .gyroYaw 0x15

/-- R57: a `GET_*` changes no block state other than `resp` (the block is idle before and after), writes nothing to the bus
and repeats; `BusRead` removes the byte it returns. -/
def Obligations.AccessorsHaveNoSideEffect : Prop :=
  (∀ (ch : Channel) (s : State), BlockInv s → s.phase = .idle → s.resp = none →
    exec (Instr.get ch) s = .next { s with
      resp := some ⟨.value, s.cache.get ch⟩, hist := s.hist ++ [.resp ⟨.value, s.cache.get ch⟩] }) ∧
  (∀ (ch : Channel) (s t : State), exec (Instr.get ch) s = .next t →
    txCount t.hist = txCount s.hist ∧ t.cache = s.cache ∧ t.dir = s.dir ∧ t.rxq = s.rxq) ∧
  (∀ (ch : Channel) (s : State), s.phase = .idle → s.resp = none →
    ∃ t u, exec (Instr.get ch) s = .next t ∧ exec (Instr.get ch) { t with resp := none } = .next u ∧ u.resp = t.resp) ∧
  (∀ (s t : State) (b : Byte), busRead s = some (b, t) → s.rxq = b :: t.rxq)

/-- R115 and R129 (the spec's decision D4): every code that is no command's word, presented at an open port, answers
`ILLEGAL_COMMAND` in that step and changes nothing else. -/
def Obligations.IllegalCodesAnswered : Prop :=
  ∀ (s : State) (c : Byte) (q : List HostAct) (r : List Move), (∀ i : Instr, c ≠ encode i) →
    s.sched = .host :: r → s.hostq = .cmd c :: q → s.phase = .idle → s.resp = none →
    step s = .next { s with
      sched := r, hostq := q, resp := some ⟨.status, 0x0004⟩, hist := s.hist ++ [.resp ⟨.status, 0x0004⟩],
      phase := .idle, cur := .none }

/-- R35 (the spec's decision D19): where the port is closed no command has any effect, and a presented command is neither
dropped nor queued: the host still holds it. That `exec` answers the unchanged state is the model's reading
(notes/assumptions/11.md), and that the act stays at the head of `hostq` is its form of the host's waiting
(notes/assumptions/3.md). -/
def Obligations.ClosedPortMakesHostWait : Prop :=
  ∀ s : State, ¬ (s.phase = .idle ∧ s.resp = none) →
    (∀ i : Instr, exec i s = .next s) ∧
    (∀ (c : Byte) (q : List HostAct), s.hostq = .cmd c :: q → hostMove s = .next s) ∧
    (∀ c : Byte, acceptCommand c s = .next s)

/-- R35 and R106 (the spec's decisions D2, D19): where the host moves next, or nothing is scheduled, and the code it presents
at an open port decodes to `i`, the step is `exec i` on the state with that act (and that move) taken; in particular after
`withFetchWord`. What happens with nothing scheduled, and the lists of moves and of the host's acts, are the model's choice
(notes/assumptions/2.md, notes/assumptions/3.md). -/
def Obligations.StepRunsDecodedCommand : Prop :=
  (∀ (s : State) (c : Byte) (i : Instr) (q : List HostAct) (r : List Move), s.sched = .host :: r →
    s.hostq = .cmd c :: q → s.phase = .idle → s.resp = none → decode c = .ok i →
    step s = exec i { s with hostq := q, sched := r }) ∧
  (∀ (s : State) (c : Byte) (i : Instr) (q : List HostAct), s.sched = [] →
    s.hostq = .cmd c :: q → s.phase = .idle → s.resp = none → decode c = .ok i →
    step s = exec i { s with hostq := q }) ∧
  (∀ (s : State) (i : Instr), i.wf = true → s.phase = .idle → s.resp = none →
    step (s.withFetchWord 8 (encode i).toNat) = exec i s)

/-- R36 (the spec's decision D2): taking the response hands it to the host and empties the register; with no response it is
not enabled. That the host then waits, with the act at the head of `hostq`, is the model's choice (notes/assumptions/3.md),
and so is the record of what was taken (notes/assumptions/4.md). -/
def Obligations.TakeResponseEmptiesRegister : Prop :=
  (∀ (s : State) (q : List HostAct) (r : Response), s.hostq = .takeResp :: q → s.resp = some r →
    hostMove s = .next { s with hostq := q, resp := none, taken := s.taken ++ [r] }) ∧
  (∀ (s : State) (q : List HostAct), s.hostq = .takeResp :: q → s.resp = none → hostMove s = .next s)

/-- R38 and R82 (the spec's decisions D13, D21): an arriving byte is appended to the stream and changes nothing else; while
`dir` is 1 it is contention, and the byte appended is unconstrained (the free value of notes/assumptions/6.md). -/
def Obligations.ArrivingByteIsQueued : Prop :=
  (∀ (p : Config.Params) (s : State) (b : Byte), s.dir = false →
    moveWith p (.rxArrive b) s = .next { s with rxq := s.rxq ++ [b] }) ∧
  (∀ (p : Config.Params) (s : State) (b : Byte), s.dir = true →
    ∃ x : Byte, moveWith p (.rxArrive b) s = .next { s with
      rxq := s.rxq ++ [x], contention := true, draws := s.draws + 1 })

/-- R44 and R141 (the spec's decision D15): reset, in any state, puts all block state at its reset value, records `Dir(0)`
if the line was at 1 and then `Reset`, and leaves `rxq`, `contention` and the environment alone. The fields in which the
environment stands, from `hostq` to `sched`, are the model's choice (notes/assumptions/2.md to 6.md). -/
def Obligations.ResetRestoresBlock : Prop :=
  ∀ (p : Config.Params) (s : State), moveWith p .reset s = .next { State.reset with
    contention := s.contention, rxq := s.rxq, hostq := s.hostq, taken := s.taken, txReady := s.txReady,
    sinkReady := s.sinkReady, draws := s.draws, sched := s.sched,
    hist := if s.dir = true then s.hist ++ [.dir false, .reset] else s.hist ++ [.reset] }

/-- R119 (no leading zeros and no plus sign are the spec's decision D17): `Dec(v)` is a minus sign for a negative value, then
one to five digits that denote the magnitude, with no leading zero. -/
def Obligations.DecimalNumeral : Prop :=
  ∀ v : Word, ∃ ds : List Byte, dec v = (if v.toInt < 0 then [0x2D] else []) ++ ds ∧
    1 ≤ ds.length ∧ ds.length ≤ 5 ∧ (∀ b ∈ ds, 0x30 ≤ b.toNat ∧ b.toNat ≤ 0x39) ∧
    (ds.head? = some 0x30 → ds = [0x30]) ∧ digitsValue 0 ds = v.toInt.natAbs

/-- R117 and R118: the bytes of `DumpText`, with each key written out. -/
def Obligations.DumpTextLayout : Prop :=
  ∀ c : Cache, dumpText c =
    [0x7B, 0x0A] ++
    ([0x09, 0x22] ++ [0x41, 0x63, 0x63, 0x20, 0x58] ++ [0x22, 0x3A, 0x20] ++ dec c.accX ++ [0x2C, 0x0A]) ++
    ([0x09, 0x22] ++ [0x41, 0x63, 0x63, 0x20, 0x59] ++ [0x22, 0x3A, 0x20] ++ dec c.accY ++ [0x2C, 0x0A]) ++
    ([0x09, 0x22] ++ [0x41, 0x63, 0x63, 0x20, 0x5A] ++ [0x22, 0x3A, 0x20] ++ dec c.accZ ++ [0x2C, 0x0A]) ++
    ([0x09, 0x22] ++ [0x47, 0x79, 0x72, 0x6F, 0x20, 0x52, 0x6F, 0x6C, 0x6C] ++ [0x22, 0x3A, 0x20] ++ dec c.gyroRoll ++
      [0x2C, 0x0A]) ++
    ([0x09, 0x22] ++ [0x47, 0x79, 0x72, 0x6F, 0x20, 0x50, 0x69, 0x74, 0x63, 0x68] ++ [0x22, 0x3A, 0x20] ++
      dec c.gyroPitch ++ [0x2C, 0x0A]) ++
    ([0x09, 0x22] ++ [0x47, 0x79, 0x72, 0x6F, 0x20, 0x59, 0x61, 0x77] ++ [0x22, 0x3A, 0x20] ++ dec c.gyroYaw ++
      [0x0A]) ++
    [0x7D, 0x0A]

/-- R123 (an inference the spec draws from R117 to R119): the length of the text, which lies in 93 to 123. -/
def Obligations.DumpTextLength : Prop :=
  ∀ c : Cache,
    (dumpText c).length = 87 + ((dec c.accX).length + (dec c.accY).length + (dec c.accZ).length +
      (dec c.gyroRoll).length + (dec c.gyroPitch).length + (dec c.gyroYaw).length) ∧
    93 ≤ (dumpText c).length ∧ (dumpText c).length ≤ 123

/-- R120 (the spec's decision D1): EMIT writes the next byte where the sink can take one, waits where it cannot, and answers
`OK` after the last byte. That a waiting block's step answers the unchanged state is the model's choice
(notes/assumptions/7.md). -/
def Obligations.EmitWritesTextThenAnswers : Prop :=
  (∀ (p : Config.Params) (s : State) (b : Byte), s.phase = .emit → s.text[s.tidx]? = some b → s.sinkReady = true →
    blockStep p s = .next { s with hist := s.hist ++ [.text b], tidx := s.tidx + 1 }) ∧
  (∀ (p : Config.Params) (s : State), s.phase = .emit → s.tidx < s.text.length → s.sinkReady = false →
    blockStep p s = .next s) ∧
  (∀ (p : Config.Params) (s : State), s.phase = .emit → s.text.length ≤ s.tidx →
    blockStep p s = .next { s with
      resp := some ⟨.status, 0x0000⟩, hist := s.hist ++ [.resp ⟨.status, 0x0000⟩], phase := .idle, cur := .none })

/-- R107 and R108 (its commit is the spec's decision D8), R88 (an inference of the spec): a `SAMPLE` at an open port, with at
least 13 bytes on the stream, a ready transmitter and a quiet environment, completes in 16 more steps of the block. It reads
exactly the first 13 bytes, the first 12 as data, commits the six scaled values, answers `OK`, records exactly these
events, and leaves every surplus byte and all other state alone. That the block moves where nothing is scheduled is the
model's choice (notes/assumptions/2.md). -/
def Obligations.SampleRunCommitsFrame : Prop :=
  ∀ (p : Config.Params) (s : State) (f rest : List Byte), s.phase = .idle → s.resp = none → s.sched = [] →
    s.txReady = true → Memory.wf s.fbuf = true → s.rxq = f ++ rest → f.length = 13 →
    ∃ s₁ t, exec .sample s = .next s₁ ∧ runWith p 16 s₁ = .next t ∧
      (∀ ch, t.cache.get ch = frameValue p f ch) ∧
      (∀ k, k < 12 → Memory.read t.fbuf k = f.getD k 0) ∧
      t = { s with
        cache := t.cache, fbuf := t.fbuf, rxCount := 12, rxq := rest, valid := true, dir := false, phase := .idle,
        cur := .none, resp := some ⟨.status, 0x0000⟩,
        hist := s.hist ++ [.dir true, .tx 0x3C, .dir false] ++ f.map .rx ++ [.resp ⟨.status, 0x0000⟩] }

/-- R116, R120 and R121 (decisions and an inference of the spec): a `DUMP` at an open port, with at least 13 bytes on the
stream, both transports ready and a quiet environment, completes: it runs exactly one sample, then writes the text of the
cache just committed, byte for byte, after its 13th read, and answers `OK`. That the block moves where nothing is scheduled
is the model's choice (notes/assumptions/2.md). -/
def Obligations.DumpRunWritesText : Prop :=
  ∀ (p : Config.Params) (s : State) (f rest : List Byte), s.phase = .idle → s.resp = none → s.sched = [] →
    s.txReady = true → s.sinkReady = true → Memory.wf s.fbuf = true → s.rxq = f ++ rest → f.length = 13 →
    ∃ s₁ t, exec .dump s = .next s₁ ∧ runWith p (17 + (dumpText t.cache).length) s₁ = .next t ∧
      (∀ ch, t.cache.get ch = frameValue p f ch) ∧
      (∀ k, k < 12 → Memory.read t.fbuf k = f.getD k 0) ∧
      t = { s with
        cache := t.cache, fbuf := t.fbuf, rxCount := 12, rxq := rest, valid := true, dir := false, phase := .idle,
        cur := .none, resp := some ⟨.status, 0x0000⟩, text := dumpText t.cache, tidx := (dumpText t.cache).length,
        hist := s.hist ++ [.dir true, .tx 0x3C, .dir false] ++ f.map .rx ++ (dumpText t.cache).map .text ++
          [.resp ⟨.status, 0x0000⟩] }

/-- The block's invariants and the protocol of the history hold at power-up (R44). -/
def Obligations.InvariantsHoldAtReset : Prop :=
  BlockInv State.reset ∧ HistFollowsProtocol State.reset

/-- Every step of every instance keeps the block's invariants: the bus is owned exactly in `REQ_TX` and `TURN` (R81), `cur`
is `NONE` exactly in `IDLE` (R26), the count, the text, the response and the frame buffer stand as their phases say (R24,
R28 to R30, R48), and before a sample the cache is zero (R34, R44). -/
def Obligations.StepKeepsBlockInvariant : Prop :=
  (∀ (p : Config.Params) (s t : State), BlockInv s → stepWith p s = .next t → BlockInv t) ∧
  (∀ s t : State, BlockInv s → step s = .next t → BlockInv t)

/-- Every step of every instance keeps the history on the protocol: for each sample `Dir(1)`, `Tx(0x3C)`, `Dir(0)`, at most
13 `Rx`, then text only after the 13th, then one response with the status that the count of bytes gives; a value or
`ILLEGAL_COMMAND` only while idle; a reset at any point (R59, R72, R81, R121, R125 to R129, R132, R141). -/
def Obligations.StepKeepsHistoryOnProtocol : Prop :=
  ∀ (p : Config.Params) (s t : State), BlockInv s → HistFollowsProtocol s → stepWith p s = .next t →
    HistFollowsProtocol t

/-- From every state that satisfies the invariant every step of every instance answers a next state: no reachable state
faults, and none is refused. The fault that is never raised (notes/assumptions/8.md), and that a block that waits answers its
unchanged state as a next state (notes/assumptions/7.md), are the model's choice. -/
def Obligations.NoStepFaults : Prop :=
  ∀ (p : Config.Params) (s : State), BlockInv s → ∃ t, stepWith p s = .next t

/-- R128 and U10 (the spec's decision D12): a step of any instance, in any state, records no new status response, and puts
none in `resp`, but with 0x0000, 0x0001, 0x0002 or 0x0004; so `MALFORMED_FRAME` is never produced, and a history on the
protocol holds none. -/
def Obligations.OnlyDefinedStatusesProduced : Prop :=
  (∀ (p : Config.Params) (s t : State) (v : Word), stepWith p s = .next t → HistEvent.resp ⟨.status, v⟩ ∈ t.hist →
    HistEvent.resp ⟨.status, v⟩ ∈ s.hist ∨ v = 0x0000 ∨ v = 0x0001 ∨ v = 0x0002 ∨ v = 0x0004) ∧
  (∀ (p : Config.Params) (s t : State) (v : Word), stepWith p s = .next t → t.resp = some ⟨.status, v⟩ →
    s.resp = some ⟨.status, v⟩ ∨ v = 0x0000 ∨ v = 0x0001 ∨ v = 0x0002 ∨ v = 0x0004) ∧
  (∀ (s : State) (v : Word), HistFollowsProtocol s → HistEvent.resp ⟨.status, v⟩ ∈ s.hist →
    v = 0x0000 ∨ v = 0x0001 ∨ v = 0x0002 ∨ v = 0x0004)

/-- R74: the block sends the one byte 0x3C as its request and nothing else: a step puts at most one byte on the bus, and
that byte is 0x3C. -/
def Obligations.OnlyRequestByteSent : Prop :=
  ∀ (p : Config.Params) (s t : State), stepWith p s = .next t →
    busOf t.hist = busOf s.hist ∨ busOf t.hist = busOf s.hist ++ [0x3C]

/-- R77, R81 (its first sentence an inference of the spec): a byte is written to the bus only while `dir` is 1; `dir` changes
only by the block's own ASSERT or RELEASE or by reset, and each change is recorded. -/
def Obligations.OwnershipChangesHands : Prop :=
  ∀ (p : Config.Params) (s t : State), BlockInv s → stepWith p s = .next t →
    (busOf t.hist ≠ busOf s.hist → s.dir = true) ∧
    (t.dir ≠ s.dir → (t.dir = true ∧ s.phase = .idle ∧ t.phase = .reqTx ∧ t.hist = s.hist ++ [.dir true]) ∨
      (t.dir = false ∧ s.phase = .turn ∧ t.phase = .rxData ∧ t.hist = s.hist ++ [.dir false]) ∨
      (t.dir = false ∧ nextMove s = .reset ∧ t.hist = s.hist ++ [.dir false, .reset]))

/-- R23 and R56 (the atomic commit is the spec's decision D8): the cache changes only by the commit, which writes all six
registers in one step, and by reset. -/
def Obligations.CacheWrittenOnlyByCommit : Prop :=
  ∀ (p : Config.Params) (s t : State), stepWith p s = .next t →
    t.cache = s.cache ∨
    (nextMove s = .block ∧ s.phase = .process ∧ t.valid = true ∧
      ∀ ch, t.cache.get ch = scale p ch (localValue s.fbuf ch)) ∨
    (nextMove s = .reset ∧ t.cache = Cache.zero)

/-- R38 and R59 (the spec's decision D13): the received stream is first in first out; a byte leaves it only by being read,
which is recorded, and joins it only by arriving, unchanged unless the bus was owned. -/
def Obligations.ReceiveStreamIsFifo : Prop :=
  ∀ (p : Config.Params) (s t : State), stepWith p s = .next t →
    t.rxq = s.rxq ∨
    (∃ b, s.rxq = b :: t.rxq ∧ t.hist = s.hist ++ [.rx b]) ∨
    (∃ b x, nextMove s = .rxArrive b ∧ t.rxq = s.rxq ++ [x] ∧ t.hist = s.hist ∧ (s.dir = false → x = b))

/-- R48, R85 (the frame buffer is the spec's decision D8): a step changes the frame buffer at most at offset `rx_count`, by a
data byte received, unless it is a reset. -/
def Obligations.FrameBufferFrame : Prop :=
  ∀ (p : Config.Params) (s t : State), BlockInv s → stepWith p s = .next t → nextMove s ≠ .reset →
    ∀ k, Memory.read t.fbuf k ≠ Memory.read s.fbuf k →
      nextMove s = .block ∧ s.phase = .rxData ∧ k = s.rxCount ∧ s.rxq = Memory.read t.fbuf k :: t.rxq

/-- R41 (the spec's decision D1): the observation history is append-only. -/
def Obligations.HistoryAppendOnly : Prop :=
  ∀ (p : Config.Params) (s t : State), stepWith p s = .next t → ∃ new, t.hist = s.hist ++ new

/-- R34 (the spec's decision D23): no step reads the model-only flags: replacing them before a step leaves the step's outcome
the same but for the flags. -/
def Obligations.ModelFlagsNeverRead : Prop :=
  ∀ (p : Config.Params) (s : State) (v c : Bool),
    (∀ t, stepWith p s = .next t → ∃ v' c', stepWith p (withFlags v c s) = .next (withFlags v' c' t)) ∧
    (∀ r, stepWith p s = .fault r → stepWith p (withFlags v c s) = .fault r)

/-- R34 and R82 (the spec's decision D21): `contention` is sticky, and it becomes true only by a byte that arrives while the
block owns the bus. -/
def Obligations.ContentionIsSticky : Prop :=
  ∀ (p : Config.Params) (s t : State), stepWith p s = .next t →
    (NoContention t → NoContention s) ∧
    (NoContention s → ¬ NoContention t → s.dir = true ∧ ∃ b, nextMove s = .rxArrive b)

/-- R91 (the spec's decision D11): every run of the unbounded block is a run of the bounded one that has no timeout. -/
def Obligations.UnboundedRunsAreBoundedRuns : Prop :=
  ∀ (sa sg : ℕ+) (n : Nat) (s : State), (∀ m ∈ s.sched, m ≠ .timeout) →
    runWith ⟨sa, sg, true⟩ n s = runWith ⟨sa, sg, false⟩ n s

/-- R155 (the spec's decision D24): a run that has ended stays as it is: with nothing scheduled, no step of any instance
changes the state, so its observable result stands. That the block and then the host move where nothing is scheduled, and
that the host waits to take a response that is not there, is the model's choice (notes/assumptions/2.md,
notes/assumptions/3.md). -/
def Obligations.EndedRunStays : Prop :=
  ∀ (p : Config.Params) (n : Nat) (s : State), RunEnded s → s.sched = [] →
    ∃ t, runWith p n s = .next t ∧ t = s ∧ observe t = observe s

/-- R71 and R72 (the spec's decisions D2, D4, D5): the code of each status, the bit of each kind, and that a status response
carries its code zero-extended to 16 bits. -/
def Obligations.StatusResponseEncoding : Prop :=
  Status.code .ok = 0x00 ∧ Status.code .busTimeout = 0x01 ∧ Status.code .frameUnderrun = 0x02 ∧
  Status.code .malformedFrame = 0x03 ∧ Status.code .illegalCommand = 0x04 ∧
  RespKind.bit .status = 0 ∧ RespKind.bit .value = 1 ∧
  (∀ (st : Status) (s : State), (respondStatus st s).resp = some ⟨.status, 0x00#8 ++ st.code⟩)

/-- R34 (the spec's decision D23): `valid` is cleared by no step but reset, which clears it, and it becomes true only by the
commit of a sample. -/
def Obligations.ValidClearedOnlyByReset : Prop :=
  ∀ (p : Config.Params) (s t : State), stepWith p s = .next t →
    (s.valid = true → t.valid = false → nextMove s = .reset) ∧
    (nextMove s = .reset → t.valid = false) ∧
    (s.valid = false → t.valid = true → nextMove s = .block ∧ s.phase = .process)
end

