-- ==== Sys2Proof/Laws/Bytes.lean ====
section
/-! SUPPORT. The two bytes of a 16-bit value, and the value of two bytes. -/

namespace Sys2Proof.Machine

/-- The low byte of `a ++ b` is `b`. -/
theorem low_of_append (a b : Byte) : (a ++ b : Word).extractLsb' 0 8 = b := by
  apply BitVec.eq_of_getLsbD_eq
  intro i hi
  have h := BitVec.getLsbD_append (x := a) (y := b) (i := i)
  rw [BitVec.getLsbD_extractLsb']
  simp only [hi, decide_true, Bool.true_and, Nat.zero_add]
  exact h.trans (by simp [hi])

/-- The high byte of `a ++ b` is `a`. -/
theorem high_of_append (a b : Byte) : (a ++ b : Word).extractLsb' 8 8 = a := by
  apply BitVec.eq_of_getLsbD_eq
  intro i hi
  have h := BitVec.getLsbD_append (x := a) (y := b) (i := 8 + i)
  rw [BitVec.getLsbD_extractLsb']
  simp only [hi, decide_true, Bool.true_and]
  exact h.trans (by simp)

/-- A value is its high byte followed by its low byte. -/
theorem append_of_bytes (v : Word) : v.extractLsb' 8 8 ++ v.extractLsb' 0 8 = v := by
  apply BitVec.eq_of_getLsbD_eq
  intro i hi
  simp only [BitVec.getLsbD_append, BitVec.getLsbD_extractLsb']
  by_cases h : i < 8
  · simp [h]
  · have h8 : i - 8 < 8 := by omega
    have e : 8 + (i - 8) = i := by omega
    simp [h, h8, e]

/-- No channel has an index of 6 or more (R54). -/
theorem ofIndex_large {k : Nat} (h : 6 ≤ k) : Channel.ofIndex k = none := by
  obtain ⟨j, rfl⟩ : ∃ j, k = j + 6 := ⟨k - 6, by omega⟩
  rfl

/-- Each channel is the one its index names (R21). -/
@[simp] theorem ofIndex_index (ch : Channel) : Channel.ofIndex ch.index = some ch := by
  cases ch <;> rfl

/-- Reading the register just written, and another one (R13). -/
theorem get_set (c : Cache) (ch ch' : Channel) (v : Word) :
    (c.set ch v).get ch' = if ch' = ch then v else c.get ch' := by
  cases ch <;> cases ch' <;> rfl

/-- The cache built from `f` holds `f` of each channel. -/
@[simp] theorem get_ofChannels (f : Channel → Word) (ch : Channel) : (Cache.ofChannels f).get ch = f ch := by
  cases ch <;> rfl

end Sys2Proof.Machine
end

