-- ==== Sys2Proof/Laws/Memory.lean ====
section
/-! SUPPORT. The laws of a byte store: what a read sees after a write, and that a write keeps the canonical form. -/

namespace Sys2Proof.Machine

@[simp] theorem Memory.read_nil (k : Nat) : Memory.read [] k = unlistedByte := rfl

/-- Below every listed offset a store reads as unlisted. -/
theorem Memory.read_below {m : Memory} {lo k : Nat} (h : Memory.rising lo m = true) (hk : k < lo) :
    Memory.read m k = unlistedByte := by
  induction m generalizing lo with
  | nil => rfl
  | cons c m ih =>
    obtain ⟨a, b⟩ := c
    simp only [Memory.rising, Bool.and_eq_true, decide_eq_true_eq] at h
    have hne : a ≠ k := by omega
    simpa only [Memory.read, if_neg hne] using ih h.2 (by omega)

/-- Rising from a bound is rising from any lower bound. -/
theorem Memory.rising_mono {m : Memory} {lo lo' : Nat} (h : Memory.rising lo m = true) (hle : lo' ≤ lo) :
    Memory.rising lo' m = true := by
  cases m with
  | nil => rfl
  | cons c m =>
    simp only [Memory.rising, Bool.and_eq_true, decide_eq_true_eq] at h ⊢
    exact ⟨by omega, h.2⟩

/-- A write at or above the bound keeps the offsets rising. -/
theorem Memory.rising_write {m : Memory} {lo k : Nat} (b : Byte) (h : Memory.rising lo m = true) (hk : lo ≤ k) :
    Memory.rising lo (Memory.write m k b) = true := by
  induction m generalizing lo with
  | nil =>
    by_cases hb : b = unlistedByte <;> simp [Memory.write, Memory.rising, hb, hk]
  | cons c m ih =>
    obtain ⟨a, d⟩ := c
    simp only [Memory.rising, Bool.and_eq_true, decide_eq_true_eq] at h
    rcases Nat.lt_trichotomy k a with hlt | rfl | hgt
    · have h' : Memory.rising (k + 1) ((a, d) :: m) = true := by
        simp only [Memory.rising, Bool.and_eq_true, decide_eq_true_eq]
        exact ⟨by omega, h.2⟩
      by_cases hb : b = unlistedByte
      · simp [Memory.write, hlt, hb, Memory.rising, h.1, h.2]
      · simp only [Memory.write, if_pos hlt, if_neg hb]
        simp [Memory.rising, hk, h.2]
        omega
    · by_cases hb : b = unlistedByte
      · simpa [Memory.write, hb] using Memory.rising_mono h.2 (by omega)
      · simp [Memory.write, hb, Memory.rising, hk, h.2]
    · have hnlt : ¬ k < a := by omega
      have hne : k ≠ a := by omega
      simp only [Memory.write, if_neg hnlt, if_neg hne, Memory.rising, Bool.and_eq_true, decide_eq_true_eq]
      exact ⟨h.1, ih h.2 (by omega)⟩

/-- A write keeps every property of entries that the new entry has. -/
theorem Memory.all_write {m : Memory} {f : Host.Cell → Bool} {k : Nat} {b : Byte} (h : m.all f = true)
    (hn : b ≠ unlistedByte → f (k, b) = true) : (Memory.write m k b).all f = true := by
  induction m with
  | nil =>
    by_cases hb : b = unlistedByte
    · simp [Memory.write, hb]
    · simp [Memory.write, hb, hn hb]
  | cons c m ih =>
    obtain ⟨a, d⟩ := c
    simp only [List.all_cons, Bool.and_eq_true] at h
    unfold Memory.write
    split
    · split
      · simp [h.1, h.2]
      · rename_i hb
        simp [h.1, h.2, hn hb]
    · split
      · split
        · exact h.2
        · rename_i hb
          simp [h.2, hn hb]
      · simp [h.1, ih h.2]

/-- A write keeps the canonical form. -/
theorem Memory.wf_write {m : Memory} (k : Nat) (b : Byte) (h : Memory.wf m = true) :
    Memory.wf (Memory.write m k b) = true := by
  simp only [Memory.wf, Bool.and_eq_true] at h ⊢
  exact ⟨Memory.rising_write b h.1 (Nat.zero_le k), Memory.all_write h.2 (fun hb => by simpa using hb)⟩

/-- A write in the frame buffer lists no offset outside it. -/
theorem Memory.inFrame_write {m : Memory} {k : Nat} (b : Byte) (h : Memory.inFrame m = true) (hk : k < Config.dataLen) :
    Memory.inFrame (Memory.write m k b) = true :=
  Memory.all_write h (fun _ => by simpa using hk)

/-- The empty store, the frame buffer at reset, has the canonical form. -/
@[simp] theorem Memory.wf_nil : Memory.wf [] = true := rfl

@[simp] theorem Memory.inFrame_nil : Memory.inFrame [] = true := rfl

/-- Reading where the byte was written, and elsewhere. -/
theorem Memory.read_write_rising {m : Memory} {lo : Nat} (k j : Nat) (b : Byte) (h : Memory.rising lo m = true) :
    Memory.read (Memory.write m k b) j = if j = k then b else Memory.read m j := by
  induction m generalizing lo with
  | nil =>
    by_cases hb : b = unlistedByte
    · simp [Memory.write, hb]
    · by_cases hj : j = k
      · simp [Memory.write, hb, Memory.read, hj]
      · have hkj : ¬ k = j := fun e => hj e.symm
        simp [Memory.write, hb, Memory.read, hj, hkj]
  | cons c m ih =>
    obtain ⟨a, d⟩ := c
    simp only [Memory.rising, Bool.and_eq_true, decide_eq_true_eq] at h
    rcases Nat.lt_trichotomy k a with hlt | rfl | hgt
    · have hbelow : Memory.read ((a, d) :: m) k = unlistedByte := by
        have hne : a ≠ k := by omega
        simpa only [Memory.read, if_neg hne] using Memory.read_below h.2 (by omega)
      by_cases hb : b = unlistedByte
      · by_cases hj : j = k
        · subst hj
          simp only [Memory.write, if_pos hlt, if_true, hbelow, hb]
        · simp only [Memory.write, if_pos hlt, if_pos hb, if_neg hj]
      · by_cases hj : j = k
        · subst hj
          simp [Memory.write, hlt, hb, Memory.read]
        · have hkj : ¬ k = j := fun e => hj e.symm
          simp [Memory.write, hlt, hb, Memory.read, hj, hkj]
    · by_cases hj : j = k
      · subst hj
        by_cases hb : b = unlistedByte
        · simpa [Memory.write, hb] using Memory.read_below h.2 (Nat.lt_succ_self _)
        · simp [Memory.write, hb, Memory.read]
      · have hkj : ¬ k = j := fun e => hj e.symm
        by_cases hb : b = unlistedByte <;> simp [Memory.write, hb, Memory.read, hj, hkj]
    · have hnlt : ¬ k < a := by omega
      have hne : k ≠ a := by omega
      by_cases hj : a = j
      · subst hj
        have hak : ¬ a = k := by omega
        simp [Memory.write, hnlt, hne, Memory.read, hak]
      · simp [Memory.write, hnlt, hne, Memory.read, hj, ih h.2]

/-- What a read sees after a write, in a store of canonical form. -/
theorem Memory.read_write {m : Memory} (k j : Nat) (b : Byte) (h : Memory.wf m = true) :
    Memory.read (Memory.write m k b) j = if j = k then b else Memory.read m j := by
  simp only [Memory.wf, Bool.and_eq_true] at h
  exact Memory.read_write_rising k j b h.1

end Sys2Proof.Machine
end

