-- ==== Sys2Proof/Laws/State.lean ====
section
/-! SUPPORT. One lemma for each field of the state and each update of it: what the field is after the update. -/

namespace Sys2Proof.Machine

variable (s : State)

section dirSetFields
@[simp] theorem dirSet_cache (v : Bool) : (dirSet v s).cache = s.cache := rfl
@[simp] theorem dirSet_phase (v : Bool) : (dirSet v s).phase = s.phase := rfl
@[simp] theorem dirSet_cur (v : Bool) : (dirSet v s).cur = s.cur := rfl
@[simp] theorem dirSet_dir (v : Bool) : (dirSet v s).dir = v := rfl
@[simp] theorem dirSet_fbuf (v : Bool) : (dirSet v s).fbuf = s.fbuf := rfl
@[simp] theorem dirSet_rxCount (v : Bool) : (dirSet v s).rxCount = s.rxCount := rfl
@[simp] theorem dirSet_text (v : Bool) : (dirSet v s).text = s.text := rfl
@[simp] theorem dirSet_tidx (v : Bool) : (dirSet v s).tidx = s.tidx := rfl
@[simp] theorem dirSet_resp (v : Bool) : (dirSet v s).resp = s.resp := rfl
@[simp] theorem dirSet_valid (v : Bool) : (dirSet v s).valid = s.valid := rfl
@[simp] theorem dirSet_contention (v : Bool) : (dirSet v s).contention = s.contention := rfl
@[simp] theorem dirSet_rxq (v : Bool) : (dirSet v s).rxq = s.rxq := rfl
@[simp] theorem dirSet_hist (v : Bool) : (dirSet v s).hist = s.hist ++ [.dir v] := rfl
@[simp] theorem dirSet_hostq (v : Bool) : (dirSet v s).hostq = s.hostq := rfl
@[simp] theorem dirSet_taken (v : Bool) : (dirSet v s).taken = s.taken := rfl
@[simp] theorem dirSet_txReady (v : Bool) : (dirSet v s).txReady = s.txReady := rfl
@[simp] theorem dirSet_sinkReady (v : Bool) : (dirSet v s).sinkReady = s.sinkReady := rfl
@[simp] theorem dirSet_draws (v : Bool) : (dirSet v s).draws = s.draws := rfl
@[simp] theorem dirSet_sched (v : Bool) : (dirSet v s).sched = s.sched := rfl
end dirSetFields

section busWriteFields
@[simp] theorem busWrite_cache (b : Byte) : (busWrite b s).cache = s.cache := rfl
@[simp] theorem busWrite_phase (b : Byte) : (busWrite b s).phase = s.phase := rfl
@[simp] theorem busWrite_cur (b : Byte) : (busWrite b s).cur = s.cur := rfl
@[simp] theorem busWrite_dir (b : Byte) : (busWrite b s).dir = s.dir := rfl
@[simp] theorem busWrite_fbuf (b : Byte) : (busWrite b s).fbuf = s.fbuf := rfl
@[simp] theorem busWrite_rxCount (b : Byte) : (busWrite b s).rxCount = s.rxCount := rfl
@[simp] theorem busWrite_text (b : Byte) : (busWrite b s).text = s.text := rfl
@[simp] theorem busWrite_tidx (b : Byte) : (busWrite b s).tidx = s.tidx := rfl
@[simp] theorem busWrite_resp (b : Byte) : (busWrite b s).resp = s.resp := rfl
@[simp] theorem busWrite_valid (b : Byte) : (busWrite b s).valid = s.valid := rfl
@[simp] theorem busWrite_contention (b : Byte) : (busWrite b s).contention = s.contention := rfl
@[simp] theorem busWrite_rxq (b : Byte) : (busWrite b s).rxq = s.rxq := rfl
@[simp] theorem busWrite_hist (b : Byte) : (busWrite b s).hist = s.hist ++ [.tx b] := rfl
@[simp] theorem busWrite_hostq (b : Byte) : (busWrite b s).hostq = s.hostq := rfl
@[simp] theorem busWrite_taken (b : Byte) : (busWrite b s).taken = s.taken := rfl
@[simp] theorem busWrite_txReady (b : Byte) : (busWrite b s).txReady = s.txReady := rfl
@[simp] theorem busWrite_sinkReady (b : Byte) : (busWrite b s).sinkReady = s.sinkReady := rfl
@[simp] theorem busWrite_draws (b : Byte) : (busWrite b s).draws = s.draws := rfl
@[simp] theorem busWrite_sched (b : Byte) : (busWrite b s).sched = s.sched := rfl
end busWriteFields

section sinkWriteFields
@[simp] theorem sinkWrite_cache (b : Byte) : (sinkWrite b s).cache = s.cache := rfl
@[simp] theorem sinkWrite_phase (b : Byte) : (sinkWrite b s).phase = s.phase := rfl
@[simp] theorem sinkWrite_cur (b : Byte) : (sinkWrite b s).cur = s.cur := rfl
@[simp] theorem sinkWrite_dir (b : Byte) : (sinkWrite b s).dir = s.dir := rfl
@[simp] theorem sinkWrite_fbuf (b : Byte) : (sinkWrite b s).fbuf = s.fbuf := rfl
@[simp] theorem sinkWrite_rxCount (b : Byte) : (sinkWrite b s).rxCount = s.rxCount := rfl
@[simp] theorem sinkWrite_text (b : Byte) : (sinkWrite b s).text = s.text := rfl
@[simp] theorem sinkWrite_tidx (b : Byte) : (sinkWrite b s).tidx = s.tidx := rfl
@[simp] theorem sinkWrite_resp (b : Byte) : (sinkWrite b s).resp = s.resp := rfl
@[simp] theorem sinkWrite_valid (b : Byte) : (sinkWrite b s).valid = s.valid := rfl
@[simp] theorem sinkWrite_contention (b : Byte) : (sinkWrite b s).contention = s.contention := rfl
@[simp] theorem sinkWrite_rxq (b : Byte) : (sinkWrite b s).rxq = s.rxq := rfl
@[simp] theorem sinkWrite_hist (b : Byte) : (sinkWrite b s).hist = s.hist ++ [.text b] := rfl
@[simp] theorem sinkWrite_hostq (b : Byte) : (sinkWrite b s).hostq = s.hostq := rfl
@[simp] theorem sinkWrite_taken (b : Byte) : (sinkWrite b s).taken = s.taken := rfl
@[simp] theorem sinkWrite_txReady (b : Byte) : (sinkWrite b s).txReady = s.txReady := rfl
@[simp] theorem sinkWrite_sinkReady (b : Byte) : (sinkWrite b s).sinkReady = s.sinkReady := rfl
@[simp] theorem sinkWrite_draws (b : Byte) : (sinkWrite b s).draws = s.draws := rfl
@[simp] theorem sinkWrite_sched (b : Byte) : (sinkWrite b s).sched = s.sched := rfl
end sinkWriteFields

section respondFields
@[simp] theorem respond_cache (k : RespKind) (v : Word) : (respond k v s).cache = s.cache := rfl
@[simp] theorem respond_phase (k : RespKind) (v : Word) : (respond k v s).phase = .idle := rfl
@[simp] theorem respond_cur (k : RespKind) (v : Word) : (respond k v s).cur = .none := rfl
@[simp] theorem respond_dir (k : RespKind) (v : Word) : (respond k v s).dir = s.dir := rfl
@[simp] theorem respond_fbuf (k : RespKind) (v : Word) : (respond k v s).fbuf = s.fbuf := rfl
@[simp] theorem respond_rxCount (k : RespKind) (v : Word) : (respond k v s).rxCount = s.rxCount := rfl
@[simp] theorem respond_text (k : RespKind) (v : Word) : (respond k v s).text = s.text := rfl
@[simp] theorem respond_tidx (k : RespKind) (v : Word) : (respond k v s).tidx = s.tidx := rfl
@[simp] theorem respond_resp (k : RespKind) (v : Word) : (respond k v s).resp = some ⟨k, v⟩ := rfl
@[simp] theorem respond_valid (k : RespKind) (v : Word) : (respond k v s).valid = s.valid := rfl
@[simp] theorem respond_contention (k : RespKind) (v : Word) : (respond k v s).contention = s.contention := rfl
@[simp] theorem respond_rxq (k : RespKind) (v : Word) : (respond k v s).rxq = s.rxq := rfl
@[simp] theorem respond_hist (k : RespKind) (v : Word) : (respond k v s).hist = s.hist ++ [.resp ⟨k, v⟩] := rfl
@[simp] theorem respond_hostq (k : RespKind) (v : Word) : (respond k v s).hostq = s.hostq := rfl
@[simp] theorem respond_taken (k : RespKind) (v : Word) : (respond k v s).taken = s.taken := rfl
@[simp] theorem respond_txReady (k : RespKind) (v : Word) : (respond k v s).txReady = s.txReady := rfl
@[simp] theorem respond_sinkReady (k : RespKind) (v : Word) : (respond k v s).sinkReady = s.sinkReady := rfl
@[simp] theorem respond_draws (k : RespKind) (v : Word) : (respond k v s).draws = s.draws := rfl
@[simp] theorem respond_sched (k : RespKind) (v : Word) : (respond k v s).sched = s.sched := rfl
end respondFields

section respondStatusFields
@[simp] theorem respondStatus_cache (st : Status) : (respondStatus st s).cache = s.cache := rfl
@[simp] theorem respondStatus_phase (st : Status) : (respondStatus st s).phase = .idle := rfl
@[simp] theorem respondStatus_cur (st : Status) : (respondStatus st s).cur = .none := rfl
@[simp] theorem respondStatus_dir (st : Status) : (respondStatus st s).dir = s.dir := rfl
@[simp] theorem respondStatus_fbuf (st : Status) : (respondStatus st s).fbuf = s.fbuf := rfl
@[simp] theorem respondStatus_rxCount (st : Status) : (respondStatus st s).rxCount = s.rxCount := rfl
@[simp] theorem respondStatus_text (st : Status) : (respondStatus st s).text = s.text := rfl
@[simp] theorem respondStatus_tidx (st : Status) : (respondStatus st s).tidx = s.tidx := rfl
@[simp] theorem respondStatus_resp (st : Status) : (respondStatus st s).resp = some ⟨.status, st.code.setWidth 16⟩ := rfl
@[simp] theorem respondStatus_valid (st : Status) : (respondStatus st s).valid = s.valid := rfl
@[simp] theorem respondStatus_contention (st : Status) : (respondStatus st s).contention = s.contention := rfl
@[simp] theorem respondStatus_rxq (st : Status) : (respondStatus st s).rxq = s.rxq := rfl
@[simp] theorem respondStatus_hist (st : Status) : (respondStatus st s).hist = s.hist ++ [.resp ⟨.status, st.code.setWidth 16⟩] := rfl
@[simp] theorem respondStatus_hostq (st : Status) : (respondStatus st s).hostq = s.hostq := rfl
@[simp] theorem respondStatus_taken (st : Status) : (respondStatus st s).taken = s.taken := rfl
@[simp] theorem respondStatus_txReady (st : Status) : (respondStatus st s).txReady = s.txReady := rfl
@[simp] theorem respondStatus_sinkReady (st : Status) : (respondStatus st s).sinkReady = s.sinkReady := rfl
@[simp] theorem respondStatus_draws (st : Status) : (respondStatus st s).draws = s.draws := rfl
@[simp] theorem respondStatus_sched (st : Status) : (respondStatus st s).sched = s.sched := rfl
end respondStatusFields

section raiseErrFields
@[simp] theorem raiseErr_cache (st : Status) : (raiseErr st s).cache = s.cache := rfl
@[simp] theorem raiseErr_phase (st : Status) : (raiseErr st s).phase = .idle := rfl
@[simp] theorem raiseErr_cur (st : Status) : (raiseErr st s).cur = .none := rfl
@[simp] theorem raiseErr_dir (st : Status) : (raiseErr st s).dir = s.dir := rfl
@[simp] theorem raiseErr_fbuf (st : Status) : (raiseErr st s).fbuf = s.fbuf := rfl
@[simp] theorem raiseErr_rxCount (st : Status) : (raiseErr st s).rxCount = s.rxCount := rfl
@[simp] theorem raiseErr_text (st : Status) : (raiseErr st s).text = s.text := rfl
@[simp] theorem raiseErr_tidx (st : Status) : (raiseErr st s).tidx = s.tidx := rfl
@[simp] theorem raiseErr_resp (st : Status) : (raiseErr st s).resp = some ⟨.status, st.code.setWidth 16⟩ := rfl
@[simp] theorem raiseErr_valid (st : Status) : (raiseErr st s).valid = s.valid := rfl
@[simp] theorem raiseErr_contention (st : Status) : (raiseErr st s).contention = s.contention := rfl
@[simp] theorem raiseErr_rxq (st : Status) : (raiseErr st s).rxq = s.rxq := rfl
@[simp] theorem raiseErr_hist (st : Status) : (raiseErr st s).hist = s.hist ++ [.resp ⟨.status, st.code.setWidth 16⟩] := rfl
@[simp] theorem raiseErr_hostq (st : Status) : (raiseErr st s).hostq = s.hostq := rfl
@[simp] theorem raiseErr_taken (st : Status) : (raiseErr st s).taken = s.taken := rfl
@[simp] theorem raiseErr_txReady (st : Status) : (raiseErr st s).txReady = s.txReady := rfl
@[simp] theorem raiseErr_sinkReady (st : Status) : (raiseErr st s).sinkReady = s.sinkReady := rfl
@[simp] theorem raiseErr_draws (st : Status) : (raiseErr st s).draws = s.draws := rfl
@[simp] theorem raiseErr_sched (st : Status) : (raiseErr st s).sched = s.sched := rfl
end raiseErrFields

section respondChannelFields
@[simp] theorem respondChannel_cache (ch : Channel) : (respondChannel ch s).cache = s.cache := rfl
@[simp] theorem respondChannel_phase (ch : Channel) : (respondChannel ch s).phase = .idle := rfl
@[simp] theorem respondChannel_cur (ch : Channel) : (respondChannel ch s).cur = .none := rfl
@[simp] theorem respondChannel_dir (ch : Channel) : (respondChannel ch s).dir = s.dir := rfl
@[simp] theorem respondChannel_fbuf (ch : Channel) : (respondChannel ch s).fbuf = s.fbuf := rfl
@[simp] theorem respondChannel_rxCount (ch : Channel) : (respondChannel ch s).rxCount = s.rxCount := rfl
@[simp] theorem respondChannel_text (ch : Channel) : (respondChannel ch s).text = s.text := rfl
@[simp] theorem respondChannel_tidx (ch : Channel) : (respondChannel ch s).tidx = s.tidx := rfl
@[simp] theorem respondChannel_resp (ch : Channel) : (respondChannel ch s).resp = some ⟨.value, s.cache.get ch⟩ := rfl
@[simp] theorem respondChannel_valid (ch : Channel) : (respondChannel ch s).valid = s.valid := rfl
@[simp] theorem respondChannel_contention (ch : Channel) : (respondChannel ch s).contention = s.contention := rfl
@[simp] theorem respondChannel_rxq (ch : Channel) : (respondChannel ch s).rxq = s.rxq := rfl
@[simp] theorem respondChannel_hist (ch : Channel) : (respondChannel ch s).hist = s.hist ++ [.resp ⟨.value, s.cache.get ch⟩] := rfl
@[simp] theorem respondChannel_hostq (ch : Channel) : (respondChannel ch s).hostq = s.hostq := rfl
@[simp] theorem respondChannel_taken (ch : Channel) : (respondChannel ch s).taken = s.taken := rfl
@[simp] theorem respondChannel_txReady (ch : Channel) : (respondChannel ch s).txReady = s.txReady := rfl
@[simp] theorem respondChannel_sinkReady (ch : Channel) : (respondChannel ch s).sinkReady = s.sinkReady := rfl
@[simp] theorem respondChannel_draws (ch : Channel) : (respondChannel ch s).draws = s.draws := rfl
@[simp] theorem respondChannel_sched (ch : Channel) : (respondChannel ch s).sched = s.sched := rfl
end respondChannelFields

section markValidFields
@[simp] theorem markValid_cache : (markValid s).cache = s.cache := rfl
@[simp] theorem markValid_phase : (markValid s).phase = s.phase := rfl
@[simp] theorem markValid_cur : (markValid s).cur = s.cur := rfl
@[simp] theorem markValid_dir : (markValid s).dir = s.dir := rfl
@[simp] theorem markValid_fbuf : (markValid s).fbuf = s.fbuf := rfl
@[simp] theorem markValid_rxCount : (markValid s).rxCount = s.rxCount := rfl
@[simp] theorem markValid_text : (markValid s).text = s.text := rfl
@[simp] theorem markValid_tidx : (markValid s).tidx = s.tidx := rfl
@[simp] theorem markValid_resp : (markValid s).resp = s.resp := rfl
@[simp] theorem markValid_valid : (markValid s).valid = true := rfl
@[simp] theorem markValid_contention : (markValid s).contention = s.contention := rfl
@[simp] theorem markValid_rxq : (markValid s).rxq = s.rxq := rfl
@[simp] theorem markValid_hist : (markValid s).hist = s.hist := rfl
@[simp] theorem markValid_hostq : (markValid s).hostq = s.hostq := rfl
@[simp] theorem markValid_taken : (markValid s).taken = s.taken := rfl
@[simp] theorem markValid_txReady : (markValid s).txReady = s.txReady := rfl
@[simp] theorem markValid_sinkReady : (markValid s).sinkReady = s.sinkReady := rfl
@[simp] theorem markValid_draws : (markValid s).draws = s.draws := rfl
@[simp] theorem markValid_sched : (markValid s).sched = s.sched := rfl
end markValidFields

section noteContentionFields
@[simp] theorem noteContention_cache : (noteContention s).cache = s.cache := rfl
@[simp] theorem noteContention_phase : (noteContention s).phase = s.phase := rfl
@[simp] theorem noteContention_cur : (noteContention s).cur = s.cur := rfl
@[simp] theorem noteContention_dir : (noteContention s).dir = s.dir := rfl
@[simp] theorem noteContention_fbuf : (noteContention s).fbuf = s.fbuf := rfl
@[simp] theorem noteContention_rxCount : (noteContention s).rxCount = s.rxCount := rfl
@[simp] theorem noteContention_text : (noteContention s).text = s.text := rfl
@[simp] theorem noteContention_tidx : (noteContention s).tidx = s.tidx := rfl
@[simp] theorem noteContention_resp : (noteContention s).resp = s.resp := rfl
@[simp] theorem noteContention_valid : (noteContention s).valid = s.valid := rfl
@[simp] theorem noteContention_contention : (noteContention s).contention = (s.contention || s.dir) := rfl
@[simp] theorem noteContention_rxq : (noteContention s).rxq = s.rxq := rfl
@[simp] theorem noteContention_hist : (noteContention s).hist = s.hist := rfl
@[simp] theorem noteContention_hostq : (noteContention s).hostq = s.hostq := rfl
@[simp] theorem noteContention_taken : (noteContention s).taken = s.taken := rfl
@[simp] theorem noteContention_txReady : (noteContention s).txReady = s.txReady := rfl
@[simp] theorem noteContention_sinkReady : (noteContention s).sinkReady = s.sinkReady := rfl
@[simp] theorem noteContention_draws : (noteContention s).draws = s.draws := rfl
@[simp] theorem noteContention_sched : (noteContention s).sched = s.sched := rfl
end noteContentionFields

section stepAssertFields
@[simp] theorem stepAssert_cache (k : CurCmd) : (stepAssert k s).cache = s.cache := rfl
@[simp] theorem stepAssert_phase (k : CurCmd) : (stepAssert k s).phase = .reqTx := rfl
@[simp] theorem stepAssert_cur (k : CurCmd) : (stepAssert k s).cur = k := rfl
@[simp] theorem stepAssert_dir (k : CurCmd) : (stepAssert k s).dir = true := rfl
@[simp] theorem stepAssert_fbuf (k : CurCmd) : (stepAssert k s).fbuf = s.fbuf := rfl
@[simp] theorem stepAssert_rxCount (k : CurCmd) : (stepAssert k s).rxCount = s.rxCount := rfl
@[simp] theorem stepAssert_text (k : CurCmd) : (stepAssert k s).text = s.text := rfl
@[simp] theorem stepAssert_tidx (k : CurCmd) : (stepAssert k s).tidx = s.tidx := rfl
@[simp] theorem stepAssert_resp (k : CurCmd) : (stepAssert k s).resp = s.resp := rfl
@[simp] theorem stepAssert_valid (k : CurCmd) : (stepAssert k s).valid = s.valid := rfl
@[simp] theorem stepAssert_contention (k : CurCmd) : (stepAssert k s).contention = s.contention := rfl
@[simp] theorem stepAssert_rxq (k : CurCmd) : (stepAssert k s).rxq = s.rxq := rfl
@[simp] theorem stepAssert_hist (k : CurCmd) : (stepAssert k s).hist = s.hist ++ [.dir true] := rfl
@[simp] theorem stepAssert_hostq (k : CurCmd) : (stepAssert k s).hostq = s.hostq := rfl
@[simp] theorem stepAssert_taken (k : CurCmd) : (stepAssert k s).taken = s.taken := rfl
@[simp] theorem stepAssert_txReady (k : CurCmd) : (stepAssert k s).txReady = s.txReady := rfl
@[simp] theorem stepAssert_sinkReady (k : CurCmd) : (stepAssert k s).sinkReady = s.sinkReady := rfl
@[simp] theorem stepAssert_draws (k : CurCmd) : (stepAssert k s).draws = s.draws := rfl
@[simp] theorem stepAssert_sched (k : CurCmd) : (stepAssert k s).sched = s.sched := rfl
end stepAssertFields

section stepReleaseFields
@[simp] theorem stepRelease_cache : (stepRelease s).cache = s.cache := rfl
@[simp] theorem stepRelease_phase : (stepRelease s).phase = .rxData := rfl
@[simp] theorem stepRelease_cur : (stepRelease s).cur = s.cur := rfl
@[simp] theorem stepRelease_dir : (stepRelease s).dir = false := rfl
@[simp] theorem stepRelease_fbuf : (stepRelease s).fbuf = s.fbuf := rfl
@[simp] theorem stepRelease_rxCount : (stepRelease s).rxCount = 0 := rfl
@[simp] theorem stepRelease_text : (stepRelease s).text = s.text := rfl
@[simp] theorem stepRelease_tidx : (stepRelease s).tidx = s.tidx := rfl
@[simp] theorem stepRelease_resp : (stepRelease s).resp = s.resp := rfl
@[simp] theorem stepRelease_valid : (stepRelease s).valid = s.valid := rfl
@[simp] theorem stepRelease_contention : (stepRelease s).contention = s.contention := rfl
@[simp] theorem stepRelease_rxq : (stepRelease s).rxq = s.rxq := rfl
@[simp] theorem stepRelease_hist : (stepRelease s).hist = s.hist ++ [.dir false] := rfl
@[simp] theorem stepRelease_hostq : (stepRelease s).hostq = s.hostq := rfl
@[simp] theorem stepRelease_taken : (stepRelease s).taken = s.taken := rfl
@[simp] theorem stepRelease_txReady : (stepRelease s).txReady = s.txReady := rfl
@[simp] theorem stepRelease_sinkReady : (stepRelease s).sinkReady = s.sinkReady := rfl
@[simp] theorem stepRelease_draws : (stepRelease s).draws = s.draws := rfl
@[simp] theorem stepRelease_sched : (stepRelease s).sched = s.sched := rfl
end stepReleaseFields

section storeDataByteFields
@[simp] theorem storeDataByte_cache (b : Byte) : (storeDataByte b s).cache = s.cache := rfl
@[simp] theorem storeDataByte_phase (b : Byte) : (storeDataByte b s).phase = if s.rxCount + 1 = Config.dataLen then .rxDelim else s.phase := rfl
@[simp] theorem storeDataByte_cur (b : Byte) : (storeDataByte b s).cur = s.cur := rfl
@[simp] theorem storeDataByte_dir (b : Byte) : (storeDataByte b s).dir = s.dir := rfl
@[simp] theorem storeDataByte_fbuf (b : Byte) : (storeDataByte b s).fbuf = Memory.write s.fbuf s.rxCount b := rfl
@[simp] theorem storeDataByte_rxCount (b : Byte) : (storeDataByte b s).rxCount = s.rxCount + 1 := rfl
@[simp] theorem storeDataByte_text (b : Byte) : (storeDataByte b s).text = s.text := rfl
@[simp] theorem storeDataByte_tidx (b : Byte) : (storeDataByte b s).tidx = s.tidx := rfl
@[simp] theorem storeDataByte_resp (b : Byte) : (storeDataByte b s).resp = s.resp := rfl
@[simp] theorem storeDataByte_valid (b : Byte) : (storeDataByte b s).valid = s.valid := rfl
@[simp] theorem storeDataByte_contention (b : Byte) : (storeDataByte b s).contention = s.contention := rfl
@[simp] theorem storeDataByte_rxq (b : Byte) : (storeDataByte b s).rxq = s.rxq := rfl
@[simp] theorem storeDataByte_hist (b : Byte) : (storeDataByte b s).hist = s.hist := rfl
@[simp] theorem storeDataByte_hostq (b : Byte) : (storeDataByte b s).hostq = s.hostq := rfl
@[simp] theorem storeDataByte_taken (b : Byte) : (storeDataByte b s).taken = s.taken := rfl
@[simp] theorem storeDataByte_txReady (b : Byte) : (storeDataByte b s).txReady = s.txReady := rfl
@[simp] theorem storeDataByte_sinkReady (b : Byte) : (storeDataByte b s).sinkReady = s.sinkReady := rfl
@[simp] theorem storeDataByte_draws (b : Byte) : (storeDataByte b s).draws = s.draws := rfl
@[simp] theorem storeDataByte_sched (b : Byte) : (storeDataByte b s).sched = s.sched := rfl
end storeDataByteFields

section commitFields
@[simp] theorem commit_cache (p : Config.Params) : (commit p s).cache = scaledCache p s.fbuf := rfl
@[simp] theorem commit_phase (p : Config.Params) : (commit p s).phase = s.phase := rfl
@[simp] theorem commit_cur (p : Config.Params) : (commit p s).cur = s.cur := rfl
@[simp] theorem commit_dir (p : Config.Params) : (commit p s).dir = s.dir := rfl
@[simp] theorem commit_fbuf (p : Config.Params) : (commit p s).fbuf = s.fbuf := rfl
@[simp] theorem commit_rxCount (p : Config.Params) : (commit p s).rxCount = s.rxCount := rfl
@[simp] theorem commit_text (p : Config.Params) : (commit p s).text = s.text := rfl
@[simp] theorem commit_tidx (p : Config.Params) : (commit p s).tidx = s.tidx := rfl
@[simp] theorem commit_resp (p : Config.Params) : (commit p s).resp = s.resp := rfl
@[simp] theorem commit_valid (p : Config.Params) : (commit p s).valid = true := rfl
@[simp] theorem commit_contention (p : Config.Params) : (commit p s).contention = s.contention := rfl
@[simp] theorem commit_rxq (p : Config.Params) : (commit p s).rxq = s.rxq := rfl
@[simp] theorem commit_hist (p : Config.Params) : (commit p s).hist = s.hist := rfl
@[simp] theorem commit_hostq (p : Config.Params) : (commit p s).hostq = s.hostq := rfl
@[simp] theorem commit_taken (p : Config.Params) : (commit p s).taken = s.taken := rfl
@[simp] theorem commit_txReady (p : Config.Params) : (commit p s).txReady = s.txReady := rfl
@[simp] theorem commit_sinkReady (p : Config.Params) : (commit p s).sinkReady = s.sinkReady := rfl
@[simp] theorem commit_draws (p : Config.Params) : (commit p s).draws = s.draws := rfl
@[simp] theorem commit_sched (p : Config.Params) : (commit p s).sched = s.sched := rfl
end commitFields

section startEmitFields
@[simp] theorem startEmit_cache : (startEmit s).cache = s.cache := rfl
@[simp] theorem startEmit_phase : (startEmit s).phase = .emit := rfl
@[simp] theorem startEmit_cur : (startEmit s).cur = s.cur := rfl
@[simp] theorem startEmit_dir : (startEmit s).dir = s.dir := rfl
@[simp] theorem startEmit_fbuf : (startEmit s).fbuf = s.fbuf := rfl
@[simp] theorem startEmit_rxCount : (startEmit s).rxCount = s.rxCount := rfl
@[simp] theorem startEmit_text : (startEmit s).text = dumpText s.cache := rfl
@[simp] theorem startEmit_tidx : (startEmit s).tidx = 0 := rfl
@[simp] theorem startEmit_resp : (startEmit s).resp = s.resp := rfl
@[simp] theorem startEmit_valid : (startEmit s).valid = s.valid := rfl
@[simp] theorem startEmit_contention : (startEmit s).contention = s.contention := rfl
@[simp] theorem startEmit_rxq : (startEmit s).rxq = s.rxq := rfl
@[simp] theorem startEmit_hist : (startEmit s).hist = s.hist := rfl
@[simp] theorem startEmit_hostq : (startEmit s).hostq = s.hostq := rfl
@[simp] theorem startEmit_taken : (startEmit s).taken = s.taken := rfl
@[simp] theorem startEmit_txReady : (startEmit s).txReady = s.txReady := rfl
@[simp] theorem startEmit_sinkReady : (startEmit s).sinkReady = s.sinkReady := rfl
@[simp] theorem startEmit_draws : (startEmit s).draws = s.draws := rfl
@[simp] theorem startEmit_sched : (startEmit s).sched = s.sched := rfl
end startEmitFields

section rxArriveFields
@[simp] theorem rxArrive_cache (b : Byte) : (rxArrive b s).cache = s.cache := rfl
@[simp] theorem rxArrive_phase (b : Byte) : (rxArrive b s).phase = s.phase := rfl
@[simp] theorem rxArrive_cur (b : Byte) : (rxArrive b s).cur = s.cur := rfl
@[simp] theorem rxArrive_dir (b : Byte) : (rxArrive b s).dir = s.dir := rfl
@[simp] theorem rxArrive_fbuf (b : Byte) : (rxArrive b s).fbuf = s.fbuf := rfl
@[simp] theorem rxArrive_rxCount (b : Byte) : (rxArrive b s).rxCount = s.rxCount := rfl
@[simp] theorem rxArrive_text (b : Byte) : (rxArrive b s).text = s.text := rfl
@[simp] theorem rxArrive_tidx (b : Byte) : (rxArrive b s).tidx = s.tidx := rfl
@[simp] theorem rxArrive_resp (b : Byte) : (rxArrive b s).resp = s.resp := rfl
@[simp] theorem rxArrive_valid (b : Byte) : (rxArrive b s).valid = s.valid := rfl
@[simp] theorem rxArrive_contention (b : Byte) : (rxArrive b s).contention = (s.contention || s.dir) := rfl
@[simp] theorem rxArrive_rxq (b : Byte) : (rxArrive b s).rxq = s.rxq ++ [arrivedByte b s] := rfl
@[simp] theorem rxArrive_hist (b : Byte) : (rxArrive b s).hist = s.hist := rfl
@[simp] theorem rxArrive_hostq (b : Byte) : (rxArrive b s).hostq = s.hostq := rfl
@[simp] theorem rxArrive_taken (b : Byte) : (rxArrive b s).taken = s.taken := rfl
@[simp] theorem rxArrive_txReady (b : Byte) : (rxArrive b s).txReady = s.txReady := rfl
@[simp] theorem rxArrive_sinkReady (b : Byte) : (rxArrive b s).sinkReady = s.sinkReady := rfl
@[simp] theorem rxArrive_draws (b : Byte) : (rxArrive b s).draws = if s.dir then s.draws + 1 else s.draws := rfl
@[simp] theorem rxArrive_sched (b : Byte) : (rxArrive b s).sched = s.sched := rfl
end rxArriveFields

section resetEventFields
@[simp] theorem resetEvent_cache : (resetEvent s).cache = Cache.zero := rfl
@[simp] theorem resetEvent_phase : (resetEvent s).phase = .idle := rfl
@[simp] theorem resetEvent_cur : (resetEvent s).cur = .none := rfl
@[simp] theorem resetEvent_dir : (resetEvent s).dir = false := rfl
@[simp] theorem resetEvent_fbuf : (resetEvent s).fbuf = [] := rfl
@[simp] theorem resetEvent_rxCount : (resetEvent s).rxCount = 0 := rfl
@[simp] theorem resetEvent_text : (resetEvent s).text = [] := rfl
@[simp] theorem resetEvent_tidx : (resetEvent s).tidx = 0 := rfl
@[simp] theorem resetEvent_resp : (resetEvent s).resp = none := rfl
@[simp] theorem resetEvent_valid : (resetEvent s).valid = false := rfl
@[simp] theorem resetEvent_contention : (resetEvent s).contention = s.contention := rfl
@[simp] theorem resetEvent_rxq : (resetEvent s).rxq = s.rxq := rfl
@[simp] theorem resetEvent_hist : (resetEvent s).hist = s.hist ++ ((if s.dir then [.dir false] else []) ++ [.reset]) := rfl
@[simp] theorem resetEvent_hostq : (resetEvent s).hostq = s.hostq := rfl
@[simp] theorem resetEvent_taken : (resetEvent s).taken = s.taken := rfl
@[simp] theorem resetEvent_txReady : (resetEvent s).txReady = s.txReady := rfl
@[simp] theorem resetEvent_sinkReady : (resetEvent s).sinkReady = s.sinkReady := rfl
@[simp] theorem resetEvent_draws : (resetEvent s).draws = s.draws := rfl
@[simp] theorem resetEvent_sched : (resetEvent s).sched = s.sched := rfl
end resetEventFields

section setTxReadyFields
@[simp] theorem setTxReady_cache (v : Bool) : (setTxReady v s).cache = s.cache := rfl
@[simp] theorem setTxReady_phase (v : Bool) : (setTxReady v s).phase = s.phase := rfl
@[simp] theorem setTxReady_cur (v : Bool) : (setTxReady v s).cur = s.cur := rfl
@[simp] theorem setTxReady_dir (v : Bool) : (setTxReady v s).dir = s.dir := rfl
@[simp] theorem setTxReady_fbuf (v : Bool) : (setTxReady v s).fbuf = s.fbuf := rfl
@[simp] theorem setTxReady_rxCount (v : Bool) : (setTxReady v s).rxCount = s.rxCount := rfl
@[simp] theorem setTxReady_text (v : Bool) : (setTxReady v s).text = s.text := rfl
@[simp] theorem setTxReady_tidx (v : Bool) : (setTxReady v s).tidx = s.tidx := rfl
@[simp] theorem setTxReady_resp (v : Bool) : (setTxReady v s).resp = s.resp := rfl
@[simp] theorem setTxReady_valid (v : Bool) : (setTxReady v s).valid = s.valid := rfl
@[simp] theorem setTxReady_contention (v : Bool) : (setTxReady v s).contention = s.contention := rfl
@[simp] theorem setTxReady_rxq (v : Bool) : (setTxReady v s).rxq = s.rxq := rfl
@[simp] theorem setTxReady_hist (v : Bool) : (setTxReady v s).hist = s.hist := rfl
@[simp] theorem setTxReady_hostq (v : Bool) : (setTxReady v s).hostq = s.hostq := rfl
@[simp] theorem setTxReady_taken (v : Bool) : (setTxReady v s).taken = s.taken := rfl
@[simp] theorem setTxReady_txReady (v : Bool) : (setTxReady v s).txReady = v := rfl
@[simp] theorem setTxReady_sinkReady (v : Bool) : (setTxReady v s).sinkReady = s.sinkReady := rfl
@[simp] theorem setTxReady_draws (v : Bool) : (setTxReady v s).draws = s.draws := rfl
@[simp] theorem setTxReady_sched (v : Bool) : (setTxReady v s).sched = s.sched := rfl
end setTxReadyFields

section setSinkReadyFields
@[simp] theorem setSinkReady_cache (v : Bool) : (setSinkReady v s).cache = s.cache := rfl
@[simp] theorem setSinkReady_phase (v : Bool) : (setSinkReady v s).phase = s.phase := rfl
@[simp] theorem setSinkReady_cur (v : Bool) : (setSinkReady v s).cur = s.cur := rfl
@[simp] theorem setSinkReady_dir (v : Bool) : (setSinkReady v s).dir = s.dir := rfl
@[simp] theorem setSinkReady_fbuf (v : Bool) : (setSinkReady v s).fbuf = s.fbuf := rfl
@[simp] theorem setSinkReady_rxCount (v : Bool) : (setSinkReady v s).rxCount = s.rxCount := rfl
@[simp] theorem setSinkReady_text (v : Bool) : (setSinkReady v s).text = s.text := rfl
@[simp] theorem setSinkReady_tidx (v : Bool) : (setSinkReady v s).tidx = s.tidx := rfl
@[simp] theorem setSinkReady_resp (v : Bool) : (setSinkReady v s).resp = s.resp := rfl
@[simp] theorem setSinkReady_valid (v : Bool) : (setSinkReady v s).valid = s.valid := rfl
@[simp] theorem setSinkReady_contention (v : Bool) : (setSinkReady v s).contention = s.contention := rfl
@[simp] theorem setSinkReady_rxq (v : Bool) : (setSinkReady v s).rxq = s.rxq := rfl
@[simp] theorem setSinkReady_hist (v : Bool) : (setSinkReady v s).hist = s.hist := rfl
@[simp] theorem setSinkReady_hostq (v : Bool) : (setSinkReady v s).hostq = s.hostq := rfl
@[simp] theorem setSinkReady_taken (v : Bool) : (setSinkReady v s).taken = s.taken := rfl
@[simp] theorem setSinkReady_txReady (v : Bool) : (setSinkReady v s).txReady = s.txReady := rfl
@[simp] theorem setSinkReady_sinkReady (v : Bool) : (setSinkReady v s).sinkReady = v := rfl
@[simp] theorem setSinkReady_draws (v : Bool) : (setSinkReady v s).draws = s.draws := rfl
@[simp] theorem setSinkReady_sched (v : Bool) : (setSinkReady v s).sched = s.sched := rfl
end setSinkReadyFields

section presentCommandFields
@[simp] theorem presentCommand_cache (c : Byte) : (presentCommand c s).cache = s.cache := rfl
@[simp] theorem presentCommand_phase (c : Byte) : (presentCommand c s).phase = s.phase := rfl
@[simp] theorem presentCommand_cur (c : Byte) : (presentCommand c s).cur = s.cur := rfl
@[simp] theorem presentCommand_dir (c : Byte) : (presentCommand c s).dir = s.dir := rfl
@[simp] theorem presentCommand_fbuf (c : Byte) : (presentCommand c s).fbuf = s.fbuf := rfl
@[simp] theorem presentCommand_rxCount (c : Byte) : (presentCommand c s).rxCount = s.rxCount := rfl
@[simp] theorem presentCommand_text (c : Byte) : (presentCommand c s).text = s.text := rfl
@[simp] theorem presentCommand_tidx (c : Byte) : (presentCommand c s).tidx = s.tidx := rfl
@[simp] theorem presentCommand_resp (c : Byte) : (presentCommand c s).resp = s.resp := rfl
@[simp] theorem presentCommand_valid (c : Byte) : (presentCommand c s).valid = s.valid := rfl
@[simp] theorem presentCommand_contention (c : Byte) : (presentCommand c s).contention = s.contention := rfl
@[simp] theorem presentCommand_rxq (c : Byte) : (presentCommand c s).rxq = s.rxq := rfl
@[simp] theorem presentCommand_hist (c : Byte) : (presentCommand c s).hist = s.hist := rfl
@[simp] theorem presentCommand_hostq (c : Byte) : (presentCommand c s).hostq = .cmd c :: s.hostq := rfl
@[simp] theorem presentCommand_taken (c : Byte) : (presentCommand c s).taken = s.taken := rfl
@[simp] theorem presentCommand_txReady (c : Byte) : (presentCommand c s).txReady = s.txReady := rfl
@[simp] theorem presentCommand_sinkReady (c : Byte) : (presentCommand c s).sinkReady = s.sinkReady := rfl
@[simp] theorem presentCommand_draws (c : Byte) : (presentCommand c s).draws = s.draws := rfl
@[simp] theorem presentCommand_sched (c : Byte) : (presentCommand c s).sched = .host :: s.sched := rfl
end presentCommandFields

end Sys2Proof.Machine
end

