-- ==== Sys2Proof/Laws/Ops.lean ====
section
/-! SUPPORT. For each shared operation, everything it can do, said once. -/

namespace Sys2Proof.Machine

/-- The port is open exactly in `IDLE` with no response standing (R35). -/
theorem cmdEnabled_iff (s : State) : s.cmdEnabled = true ↔ s.phase = .idle ∧ s.resp = none := by
  simp [State.cmdEnabled]

/-- A command either has its effect at an open port, or the host waits and nothing happens (R35, R106). -/
theorem accept_next {f : State → State} {s t : State} (h : accept f s = .next t) :
    (s.cmdEnabled = true ∧ t = f s) ∨ (s.cmdEnabled = false ∧ t = s) := by
  unfold accept at h
  split at h
  · rename_i hp
    injection h with h
    exact .inl ⟨hp, h.symm⟩
  · rename_i hp
    injection h with h
    exact .inr ⟨by simpa using hp, h.symm⟩

theorem accept_open {f : State → State} {s : State} (h : s.cmdEnabled = true) : accept f s = .next (f s) := by
  simp [accept, h]

theorem accept_closed {f : State → State} {s : State} (h : s.cmdEnabled = false) : accept f s = .next s := by
  simp [accept, h]

/-- A read from the bus takes the oldest byte and records it (R38). -/
theorem busRead_some {s t : State} {b : Byte} (h : busRead s = some (b, t)) :
    ∃ q, s.rxq = b :: q ∧ t = { s with rxq := q, hist := s.hist ++ [.rx b] } := by
  unfold busRead at h
  split at h
  · cases h
  · rename_i c q hq
    simp only [Option.some.injEq, Prod.mk.injEq] at h
    obtain ⟨rfl, rfl⟩ := h
    exact ⟨q, hq, rfl⟩

theorem busRead_cons {s : State} {b : Byte} {q : List Byte} (h : s.rxq = b :: q) :
    busRead s = some (b, { s with rxq := q, hist := s.hist ++ [.rx b] }) := by
  simp [busRead, h]

theorem busRead_nil {s : State} (h : s.rxq = []) : busRead s = none := by
  simp [busRead, h]

/-- REQUEST sends the one byte, or waits holding the bus (R79). -/
theorem stepRequest_cases (s : State) :
    (s.txReady = true ∧ stepRequest s = { s with hist := s.hist ++ [.tx Config.reqByte], phase := .turn }) ∨
      (s.txReady = false ∧ stepRequest s = s) := by
  cases h : s.txReady with
  | true => exact .inl ⟨rfl, by simp [stepRequest, h, busWrite]⟩
  | false => exact .inr ⟨rfl, by simp [stepRequest, h]⟩

/-- RXDATA stores the oldest byte, or waits; it faults only where the buffer is already full (R48, R85, R87). -/
theorem stepRxData_cases (s : State) :
    (s.rxq = [] ∧ stepRxData s = .next s) ∨
      (∃ b q, s.rxq = b :: q ∧ s.rxCount < Config.dataLen ∧
        stepRxData s = .next (storeDataByte b { s with rxq := q, hist := s.hist ++ [.rx b] })) ∨
      (s.rxq ≠ [] ∧ ¬ s.rxCount < Config.dataLen ∧ stepRxData s = .fault .frameBufferOffset) := by
  rcases hq : s.rxq with _ | ⟨b, q⟩
  · exact .inl ⟨rfl, by simp [stepRxData, busRead_nil hq]⟩
  · by_cases hc : s.rxCount < Config.dataLen
    · exact .inr (.inl ⟨b, q, rfl, hc, by simp [stepRxData, busRead_cons hq, hc]⟩)
    · exact .inr (.inr ⟨by simp, hc, by simp [stepRxData, busRead_cons hq, hc]⟩)

/-- RXDELIM discards the oldest byte, or waits (R86, R87). -/
theorem stepRxDelim_cases (s : State) :
    (s.rxq = [] ∧ stepRxDelim s = s) ∨
      (∃ b q, s.rxq = b :: q ∧
        stepRxDelim s = { s with rxq := q, hist := s.hist ++ [.rx b], phase := .process }) := by
  rcases hq : s.rxq with _ | ⟨b, q⟩
  · exact .inl ⟨rfl, by simp [stepRxDelim, busRead_nil hq]⟩
  · exact .inr ⟨b, q, rfl, by simp [stepRxDelim, busRead_cons hq]⟩

/-- A timeout is enabled only in a bounded wait on an empty stream (R42). -/
theorem timeoutEnabled_iff (p : Config.Params) (s : State) :
    timeoutEnabled p s = true ↔ p.boundedWait = true ∧ (s.phase = .rxData ∨ s.phase = .rxDelim) ∧ s.rxq = [] := by
  simp [timeoutEnabled, and_assoc]

/-- A timeout ends the command, or does not happen (R42, R91). -/
theorem stepTimeout_cases (p : Config.Params) (s : State) :
    (timeoutEnabled p s = true ∧ stepTimeout p s = raiseErr (timeoutStatus s) s) ∨
      (timeoutEnabled p s = false ∧ stepTimeout p s = s) := by
  cases h : timeoutEnabled p s with
  | true => exact .inl ⟨rfl, by simp [stepTimeout, h]⟩
  | false => exact .inr ⟨rfl, by simp [stepTimeout, h]⟩

/-- PROCESS commits and then answers a `SAMPLE` or starts the text (R108). -/
theorem stepProcess_cases (p : Config.Params) (s : State) :
    (s.cur = .sample ∧ stepProcess p s = respondStatus .ok (commit p s)) ∨
      (s.cur ≠ .sample ∧ stepProcess p s = startEmit (commit p s)) := by
  by_cases h : s.cur = .sample
  · exact .inl ⟨h, by simp [stepProcess, h]⟩
  · exact .inr ⟨h, by simp [stepProcess, h]⟩

/-- EMIT writes the next byte, waits for the sink, or answers after the last byte (R120). -/
theorem stepEmit_cases (s : State) :
    (∃ b, s.text[s.tidx]? = some b ∧ s.sinkReady = true ∧
        stepEmit s = { s with hist := s.hist ++ [.text b], tidx := s.tidx + 1 }) ∨
      (s.tidx < s.text.length ∧ s.sinkReady = false ∧ stepEmit s = s) ∨
      (s.text.length ≤ s.tidx ∧ stepEmit s = respondStatus .ok s) := by
  cases ht : s.text[s.tidx]? with
  | none => exact .inr (.inr ⟨by simpa using ht, by simp [stepEmit, ht]⟩)
  | some b =>
    have hlt : s.tidx < s.text.length := (List.getElem?_eq_some_iff.mp ht).1
    cases hr : s.sinkReady with
    | true => exact .inl ⟨b, rfl, rfl, by simp [stepEmit, ht, hr, sinkWrite]⟩
    | false => exact .inr (.inl ⟨hlt, rfl, by simp [stepEmit, ht, hr]⟩)

/-- Taking the response returns it and empties the register (R36). -/
theorem takeResp_some {s t : State} (h : takeResp s = some t) :
    ∃ r, s.resp = some r ∧ t = { s with resp := none, taken := s.taken ++ [r] } := by
  unfold takeResp at h
  split at h
  · cases h
  · rename_i r hr
    injection h with h
    exact ⟨r, hr, h.symm⟩

theorem takeResp_none {s : State} (h : takeResp s = none) : s.resp = none := by
  unfold takeResp at h
  split at h
  · assumption
  · cases h

/-- Every command answers a next state, whatever the state. -/
theorem exec_next (i : Instr) (s : State) : ∃ t, exec i s = .next t := by
  cases hp : s.cmdEnabled with
  | true =>
    cases i <;> exact ⟨_, accept_open hp⟩
  | false =>
    cases i <;> exact ⟨_, accept_closed hp⟩

/-- A presented code starts a sample, answers a register of the cache, or answers `ILLEGAL_COMMAND`; at a closed port
nothing happens (R35, R106). -/
theorem acceptCommand_cases (c : Byte) (s : State) :
    (s.cmdEnabled = false ∧ acceptCommand c s = .next s) ∨
      (s.cmdEnabled = true ∧
        (acceptCommand c s = .next (stepAssert .sample s) ∨ acceptCommand c s = .next (stepAssert .dump s) ∨
          (∃ ch, acceptCommand c s = .next (respondChannel ch s)) ∨
          acceptCommand c s = .next (raiseErr .illegalCommand s))) := by
  unfold acceptCommand
  cases hp : s.cmdEnabled with
  | false =>
    refine .inl ⟨rfl, ?_⟩
    split
    · rename_i i _
      cases i <;> exact accept_closed hp
    · exact accept_closed hp
  | true =>
    refine .inr ⟨rfl, ?_⟩
    split
    · rename_i i _
      cases i with
      | sample => exact .inl (accept_open hp)
      | dump => exact .inr (.inl (accept_open hp))
      | getAccX => exact .inr (.inr (.inl ⟨.accX, accept_open hp⟩))
      | getAccY => exact .inr (.inr (.inl ⟨.accY, accept_open hp⟩))
      | getAccZ => exact .inr (.inr (.inl ⟨.accZ, accept_open hp⟩))
      | getGyroRoll => exact .inr (.inr (.inl ⟨.gyroRoll, accept_open hp⟩))
      | getGyroPitch => exact .inr (.inr (.inl ⟨.gyroPitch, accept_open hp⟩))
      | getGyroYaw => exact .inr (.inr (.inl ⟨.gyroYaw, accept_open hp⟩))
    · exact .inr (.inr (.inr (accept_open hp)))

/-- The host's act happens where its port is open; otherwise nothing happens and the act stays (R35, R36). -/
theorem hostMove_cases (s : State) :
    hostMove s = .next s ∨
      (∃ c q, s.hostq = .cmd c :: q ∧ s.cmdEnabled = true ∧ hostMove s = acceptCommand c { s with hostq := q }) ∨
      (∃ q r, s.hostq = .takeResp :: q ∧ s.resp = some r ∧
        hostMove s = .next { s with hostq := q, resp := none, taken := s.taken ++ [r] }) := by
  rcases hq : s.hostq with _ | ⟨a, q⟩
  · exact .inl (by simp [hostMove, hq])
  · cases a with
    | cmd c =>
      cases hp : s.cmdEnabled with
      | true => exact .inr (.inl ⟨c, q, rfl, rfl, by simp [hostMove, hq, hp]⟩)
      | false => exact .inl (by simp [hostMove, hq, hp])
    | takeResp =>
      cases hr : s.resp with
      | none => exact .inl (by simp [hostMove, hq, takeResp, hr])
      | some r => exact .inr (.inr ⟨q, r, rfl, rfl, by simp [hostMove, hq, takeResp, hr]⟩)

/-- A step makes one move, on the state with that move taken from the schedule. -/
theorem stepWith_eq (p : Config.Params) (s : State) :
    (s.sched = [] ∧ stepWith p s = moveWith p (defaultMove s) s) ∨
      (∃ m r, s.sched = m :: r ∧ stepWith p s = moveWith p m { s with sched := r }) := by
  rcases h : s.sched with _ | ⟨m, r⟩
  · exact .inl ⟨rfl, by simp [stepWith, h]⟩
  · exact .inr ⟨m, r, rfl, by simp [stepWith, h]⟩

end Sys2Proof.Machine
end

