-- ==== Sys2Proof/Laws/PerInstr.lean ====
section
/-! SUPPORT. What holds of each command as syntax, one lemma for each constructor of `Instr`. -/

namespace Sys2Proof.Laws

/-- A command is well formed and its word decodes to it (R65, R66). -/
def RoundTrip.Statement (i : Instr) : Prop := i.wf = true ∧ decode (encode i) = .ok i

theorem RoundTrip.sample : RoundTrip.Statement .sample := ⟨rfl, rfl⟩

theorem RoundTrip.dump : RoundTrip.Statement .dump := ⟨rfl, rfl⟩

theorem RoundTrip.getAccX : RoundTrip.Statement .getAccX := ⟨rfl, rfl⟩

theorem RoundTrip.getAccY : RoundTrip.Statement .getAccY := ⟨rfl, rfl⟩

theorem RoundTrip.getAccZ : RoundTrip.Statement .getAccZ := ⟨rfl, rfl⟩

theorem RoundTrip.getGyroRoll : RoundTrip.Statement .getGyroRoll := ⟨rfl, rfl⟩

theorem RoundTrip.getGyroPitch : RoundTrip.Statement .getGyroPitch := ⟨rfl, rfl⟩

theorem RoundTrip.getGyroYaw : RoundTrip.Statement .getGyroYaw := ⟨rfl, rfl⟩

end Sys2Proof.Laws
end

