-- ==== Sys2Proof/Laws/Step.lean ====
section
/-! SUPPORT. What a step can do, said once: every effect a move can have on a state. -/

namespace Sys2Proof.Machine

/-- Every effect a move of an instance can have: `MoveEffect p m s t` lists the ways in which `m` takes `s` to `t`. -/
inductive MoveEffect (p : Config.Params) : Move → State → State → Prop where
  /-- a move that is not enabled changes nothing; the other moves are always enabled -/
  | stay (m : Move) (s : State) : m = .block ∨ m = .host ∨ m = .timeout → MoveEffect p m s s
  | request (s : State) : s.phase = .reqTx → s.txReady = true →
      MoveEffect p .block s { s with hist := s.hist ++ [.tx Config.reqByte], phase := .turn }
  | release (s : State) : s.phase = .turn → MoveEffect p .block s (stepRelease s)
  | rxData (s : State) (b : Byte) (q : List Byte) : s.phase = .rxData → s.rxq = b :: q → s.rxCount < Config.dataLen →
      MoveEffect p .block s (storeDataByte b { s with rxq := q, hist := s.hist ++ [.rx b] })
  | rxDelim (s : State) (b : Byte) (q : List Byte) : s.phase = .rxDelim → s.rxq = b :: q →
      MoveEffect p .block s { s with rxq := q, hist := s.hist ++ [.rx b], phase := .process }
  | processSample (s : State) : s.phase = .process → s.cur = .sample →
      MoveEffect p .block s (respondStatus .ok (commit p s))
  | processDump (s : State) : s.phase = .process → s.cur ≠ .sample →
      MoveEffect p .block s (startEmit (commit p s))
  | emitByte (s : State) (b : Byte) : s.phase = .emit → s.text[s.tidx]? = some b →
      MoveEffect p .block s { s with hist := s.hist ++ [.text b], tidx := s.tidx + 1 }
  | emitEnd (s : State) : s.phase = .emit → s.text.length ≤ s.tidx → MoveEffect p .block s (respondStatus .ok s)
  | assert (s : State) (q : List HostAct) (k : CurCmd) : s.phase = .idle → s.resp = none →
      MoveEffect p .host s (stepAssert k { s with hostq := q })
  | get (s : State) (q : List HostAct) (ch : Channel) : s.phase = .idle → s.resp = none →
      MoveEffect p .host s (respondChannel ch { s with hostq := q })
  | illegal (s : State) (q : List HostAct) : s.phase = .idle → s.resp = none →
      MoveEffect p .host s (raiseErr .illegalCommand { s with hostq := q })
  | take (s : State) (q : List HostAct) (r : Response) : s.resp = some r →
      MoveEffect p .host s { s with hostq := q, resp := none, taken := s.taken ++ [r] }
  | arrive (s : State) (b : Byte) : MoveEffect p (.rxArrive b) s (rxArrive b s)
  | timeout (s : State) : timeoutEnabled p s = true →
      MoveEffect p .timeout s (raiseErr (timeoutStatus s) s)
  | reset (s : State) : MoveEffect p .reset s (resetEvent s)
  | txReady (s : State) (v : Bool) : MoveEffect p (.txReady v) s (setTxReady v s)
  | sinkReady (s : State) (v : Bool) : MoveEffect p (.sinkReady v) s (setSinkReady v s)

/-- A step of the block has one of the block's effects. -/
theorem blockStep_effect {p : Config.Params} {s t : State} (h : blockStep p s = .next t) : MoveEffect p .block s t := by
  unfold blockStep at h
  split at h <;> rename_i hp
  · injection h with h
    exact h ▸ .stay _ _ (by simp)
  · injection h with h
    rcases stepRequest_cases s with ⟨hr, e⟩ | ⟨_, e⟩ <;> rw [e] at h
    · exact h ▸ .request s hp hr
    · exact h ▸ .stay _ _ (by simp)
  · injection h with h
    exact h ▸ .release s hp
  · rcases stepRxData_cases s with ⟨_, e⟩ | ⟨b, q, hq, hc, e⟩ | ⟨_, _, e⟩ <;> rw [e] at h
    · injection h with h
      exact h ▸ .stay _ _ (by simp)
    · injection h with h
      exact h ▸ .rxData s b q hp hq hc
    · cases h
  · injection h with h
    rcases stepRxDelim_cases s with ⟨_, e⟩ | ⟨b, q, hq, e⟩ <;> rw [e] at h
    · exact h ▸ .stay _ _ (by simp)
    · exact h ▸ .rxDelim s b q hp hq
  · injection h with h
    rcases stepProcess_cases p s with ⟨hc, e⟩ | ⟨hc, e⟩ <;> rw [e] at h
    · exact h ▸ .processSample s hp hc
    · exact h ▸ .processDump s hp hc
  · injection h with h
    rcases stepEmit_cases s with ⟨b, hb, _, e⟩ | ⟨_, _, e⟩ | ⟨hl, e⟩ <;> rw [e] at h
    · exact h ▸ .emitByte s b hp hb
    · exact h ▸ .stay _ _ (by simp)
    · exact h ▸ .emitEnd s hp hl

/-- A move has one of its effects. -/
theorem moveWith_effect {p : Config.Params} {m : Move} {s t : State} (h : moveWith p m s = .next t) :
    MoveEffect p m s t := by
  cases m with
  | block => exact blockStep_effect h
  | host =>
    simp only [moveWith] at h
    rcases hostMove_cases s with e | ⟨c, q, _, hp, e⟩ | ⟨q, r, _, hr, e⟩ <;> rw [e] at h
    · injection h with h
      exact h ▸ .stay _ _ (by simp)
    · have hen := (cmdEnabled_iff s).1 hp
      rcases acceptCommand_cases c { s with hostq := q } with ⟨hn, _⟩ | ⟨_, e | e | ⟨ch, e⟩ | e⟩
      · simp [State.cmdEnabled, hen] at hn
      all_goals
        rw [e] at h
        injection h with h
      · exact h ▸ .assert s q _ hen.1 hen.2
      · exact h ▸ .assert s q _ hen.1 hen.2
      · exact h ▸ .get s q ch hen.1 hen.2
      · exact h ▸ .illegal s q hen.1 hen.2
    · injection h with h
      exact h ▸ .take s q r hr
  | rxArrive b =>
    injection h with h
    exact h ▸ .arrive s b
  | timeout =>
    simp only [moveWith] at h
    injection h with h
    rcases stepTimeout_cases p s with ⟨he, e⟩ | ⟨_, e⟩ <;> rw [e] at h
    · exact h ▸ .timeout s he
    · exact h ▸ .stay _ _ (by simp)
  | reset =>
    injection h with h
    exact h ▸ .reset s
  | txReady v =>
    injection h with h
    exact h ▸ .txReady s v
  | sinkReady v =>
    injection h with h
    exact h ▸ .sinkReady s v

end Sys2Proof.Machine
end

