-- ==== Sys2Proof/Tests/Slice0.lean ====
section
/-! SUPPORT. The model's own tests: the checks on syntax, the command words written out from the spec's encoding, the test
vectors of 95_test_vectors.md one step at a time, and for each statement a state that meets its hypotheses. -/

namespace Sys2Proof.Tests

open Sys2Proof.Machine

/-! ### The checks on syntax refuse ill-formed terms (R66, R69, R70) -/

theorem test_channelField_6_refused : channelFieldWf 6 = false ∧ channelFieldWf 5 = true := by decide

theorem test_rawByte_256_refused : rawByteWf 256 = false ∧ rawByteWf 255 = true := by decide

theorem test_get_6_refused : AsmLine.wf (.getIndex 6) = false := by decide

theorem test_get_7_refused : AsmLine.wf (.getIndex 7) = false := by decide

theorem test_cmd_256_refused : AsmLine.wf (.raw 256) = false := by decide

theorem test_every_command_wf : Instr.all.all Instr.wf = true := by decide

/-! ### Decoding, word by word from R64 and R65 -/

theorem test_decode_sample : decode 0b00000001 = .ok .sample := rfl

theorem test_decode_dump : decode 0b00000010 = .ok .dump := rfl

theorem test_decode_getAccX : decode 0b00010000 = .ok .getAccX := rfl

theorem test_decode_getAccY : decode 0b00010001 = .ok .getAccY := rfl

theorem test_decode_getAccZ : decode 0b00010010 = .ok .getAccZ := rfl

theorem test_decode_getGyroRoll : decode 0b00010011 = .ok .getGyroRoll := rfl

theorem test_decode_getGyroPitch : decode 0b00010100 = .ok .getGyroPitch := rfl

theorem test_decode_getGyroYaw : decode 0b00010101 = .ok .getGyroYaw := rfl

theorem test_decode_channel_6_illegal : decode 0x16 = .error (.illegal 0x16) := rfl

theorem test_decode_request_byte_illegal : decode 0x3C = .error (.illegal 0x3C) := rfl

theorem test_table_words :
    [0x01, 0x02, 0x10, 0x11, 0x12, 0x13, 0x14, 0x15].map (decodeTableWord 8) = Instr.all.map some := by decide

/-! ### The assembler (R69, R70; programs A and D of the vectors) -/

theorem test_assemble_program_D :
    assemble "SAMPLE ; 01\nSAMPLE\n.cmd 0x16 ; illegal\n\tGET_ACC_Z\nSAMPLE\nDUMP".toList =
      .ok [0x01, 0x01, 0x16, 0x12, 0x01, 0x02] := by decide +kernel

theorem test_assemble_pseudo : assemble "GET 5\nGET ACC_Y".toList = .ok [0x15, 0x11] := by decide +kernel

theorem test_assemble_get_6 : assemble "GET 6".toList = .error .notAChannel := by decide +kernel

/-! ### States -/

/-- Parameter sets of 95_test_vectors.md, and the bounded-wait variant of P1. -/
def p1 : Config.Params := ⟨1, 1, false⟩

def p2 : Config.Params := ⟨2, 3, false⟩

def p3 : Config.Params := ⟨1000, 7, false⟩

def p1Bounded : Config.Params := ⟨1, 1, true⟩

/-- Frame F1 of 95_test_vectors.md. -/
def f1 : List Byte := [0x00, 0x01, 0xFF, 0xFF, 0x40, 0x00, 0x00, 0x00, 0x00, 0x00, 0xFF, 0xFB, 0x0A]

/-- The data bytes of frame F2, as the frame buffer holds them. -/
def f2Buffer : Memory :=
  [(0, 0x7F), (1, 0xFF), (2, 0x80), (4, 0xFF), (5, 0xF9), (6, 0x80), (8, 0x7F), (9, 0xFF), (10, 0xFF), (11, 0xFC)]

/-- The cache after F1 under P1. -/
def f1Cache : Cache := ⟨0x0001, 0xFFFF, 0x4000, 0x0000, 0x0000, 0xFFFB⟩

/-- Idle after a successful sample, the response taken. -/
def sampled : State := { State.reset with cache := f1Cache, valid := true, rxCount := 12 }

/-- Waiting for data byte `n` with `q` on the stream. -/
def receiving (n : Nat) (q : List Byte) : State :=
  { State.reset with phase := .rxData, cur := .sample, rxCount := n, rxq := q }

/-- Waiting for the delimiter with `q` on the stream. -/
def delimiting (q : List Byte) : State :=
  { State.reset with phase := .rxDelim, cur := .sample, rxCount := 12, rxq := q }

/-- About to send the request byte, owning the bus. -/
def requesting : State :=
  { State.reset with phase := .reqTx, cur := .sample, dir := true, hist := [.dir true] }

/-- About to release the bus. -/
def turning : State :=
  { State.reset with phase := .turn, cur := .sample, dir := true, hist := [.dir true, .tx 0x3C] }

/-- About to commit frame F2 for the command `k`. -/
def processing (k : CurCmd) : State :=
  { State.reset with phase := .process, cur := k, rxCount := 12, fbuf := f2Buffer }

/-- Writing the text of a zero cache, `n` bytes written. -/
def emitting (n : Nat) : State :=
  { State.reset with phase := .emit, cur := .dump, text := dumpText Cache.zero, tidx := n }

/-- A frame waits on the stream of an idle block. -/
def frameWaiting : State := { sampled with rxq := f1 ++ [0x0A] }

/-- A response stands. -/
def answered : State := { sampled with resp := some ⟨.status, 0x0000⟩, hist := [.resp ⟨.value, 0x0000⟩] }

/-- The state an outcome goes on with. -/
def nextOf : Host.Outcome State Fault Refusal → Option State
  | .next s => some s
  | .fault _ => none
  | .refused _ => none

/-! ### Commands at the port (R78, R106, R109 to R115; vectors A-1, G-1 to G-5, E-4) -/

theorem test_sample_from_reset :
    (nextOf (exec .sample State.reset)).map (fun t => (t.dir, t.cur, t.phase, t.hist)) =
      some (true, .sample, .reqTx, [.dir true]) := by decide

theorem test_dump_from_reset :
    (nextOf (exec .dump State.reset)).map (fun t => (t.dir, t.cur, t.phase)) = some (true, .dump, .reqTx) := by decide

theorem test_getAccX : (nextOf (exec .getAccX sampled)).map (·.resp) = some (some ⟨.value, 0x0001⟩) := by decide

theorem test_getAccX_before_sample :
    (nextOf (exec .getAccX State.reset)).map (fun t => (t.resp, t.valid)) = some (some ⟨.value, 0x0000⟩, false) := by
  decide

theorem test_getAccY : (nextOf (exec .getAccY sampled)).map (·.resp) = some (some ⟨.value, 0xFFFF⟩) := by decide

theorem test_getAccZ : (nextOf (exec .getAccZ sampled)).map (·.resp) = some (some ⟨.value, 0x4000⟩) := by decide

theorem test_getGyroRoll :
    (nextOf (exec .getGyroRoll { sampled with cache := ⟨0, 0, 0, 0xD556, 0, 0⟩ })).map (·.resp) =
      some (some ⟨.value, 0xD556⟩) := by decide

theorem test_getGyroPitch :
    (nextOf (exec .getGyroPitch { sampled with cache := ⟨0, 0, 0, 0, 0x2AAA, 0⟩ })).map (·.resp) =
      some (some ⟨.value, 0x2AAA⟩) := by decide

theorem test_getGyroYaw :
    (nextOf (exec .getGyroYaw sampled)).map (fun t => (t.resp, txCount t.hist)) =
      some (some ⟨.value, 0xFFFB⟩, 0) := by decide

theorem test_sample_waits_for_taken_response : exec .sample answered = .next answered := rfl

theorem test_illegal_code :
    (nextOf (step (State.reset.withFetchWord 8 0x16))).map (fun t => (t.resp, t.cache, t.dir)) =
      some (some ⟨.status, 0x0004⟩, Cache.zero, false) := by decide

theorem test_fetched_word_runs : step (State.reset.withFetchWord 8 0x12) = exec .getAccZ State.reset := rfl

/-! ### Arbiter, parser, timeouts (vectors A-2, A-3, A-5, P-1, P-2, P-6 to P-9, P-11) -/

theorem test_request : blockStep p1 requesting =
    .next { turning with hist := [.dir true, .tx 0x3C] } := rfl

theorem test_release :
    (nextOf (blockStep p1 turning)).map (fun t => (t.dir, t.rxCount, t.phase)) = some (false, 0, .rxData) := by decide

theorem test_contention : (rxArrive 0x55 requesting).contention = true := rfl

theorem test_no_contention_in_receive :
    ((rxArrive 0x55 (receiving 0 [])).contention, (rxArrive 0x55 (receiving 0 [])).rxq) = (false, [0x55]) := by decide

theorem test_rxData_first_byte :
    (nextOf (blockStep p1 (receiving 0 (f1.drop 1)))).map (fun t => (t.rxCount, t.phase, t.fbuf, t.rxq.length)) =
      some (1, .rxData, [(0, 0x01)], 11) := by decide

theorem test_rxData_last_byte :
    (nextOf (blockStep p1 (receiving 11 [0xFB, 0x0A]))).map (fun t => (t.rxCount, t.phase, t.fbuf, t.rxq)) =
      some (12, .rxDelim, [(11, 0xFB)], [0x0A]) := by decide

theorem test_delimiter_not_checked :
    (nextOf (blockStep p1 (delimiting [0x3C]))).map (fun t => (t.phase, t.rxq)) = some (.process, []) := by decide

theorem test_timeout_statuses :
    [receiving 0 [], receiving 1 [], receiving 11 [], delimiting []].map (fun s => (stepTimeout p1Bounded s).resp) =
      [some ⟨.status, 0x0001⟩, some ⟨.status, 0x0002⟩, some ⟨.status, 0x0002⟩, some ⟨.status, 0x0002⟩] := by decide

theorem test_no_timeout_with_byte_waiting : stepTimeout p1Bounded (receiving 0 [0x12]) = receiving 0 [0x12] := rfl

/-! ### Byte order, scaler, commit (W3, W8, section 2.5, the example of R108) -/

theorem test_bswap :
    [0x0000, 0xFFFF, 0x8000, 0x7FFF, 0x1234, 0x00FF, 0x0100, 0xA55A].map bswap16 =
      [0x0000, 0xFFFF, 0x0080, 0xFF7F, 0x3412, 0xFF00, 0x0001, 0x5AA5] := by decide

theorem test_tdiv :
    (tdiv (-7) 2, tdiv (-1) 2, tdiv (-32768) 3, tdiv 32767 1000, tdiv (-32768) 32768, tdiv (-32768) 65535) =
      (-3, 0, -10922, 32, -1, 0) := by decide

theorem test_process_sample :
    (nextOf (blockStep p2 (processing .sample))).map (fun t => (t.cache, t.resp, t.phase, t.valid)) =
      some (⟨0x3FFF, 0xC000, 0xFFFD, 0xD556, 0x2AAA, 0xFFFF⟩, some ⟨.status, 0x0000⟩, .idle, true) := by decide

theorem test_process_dump :
    (nextOf (blockStep p3 (processing .dump))).map (fun t => (t.cache, t.resp, t.phase, t.text.length)) =
      some (⟨0x0020, 0xFFE0, 0x0000, 0xEDB7, 0x1249, 0x0000⟩, none, .emit, 103) := by decide +kernel

/-! ### Text (W4, section 2.7) -/

theorem test_dec :
    [0x0000, 0x000A, 0xFFF6, 0x7FFF, 0x8000].map dec =
      [[0x30], [0x31, 0x30], [0x2D, 0x31, 0x30], [0x33, 0x32, 0x37, 0x36, 0x37],
        [0x2D, 0x33, 0x32, 0x37, 0x36, 0x38]] := by decide

theorem test_dumpText_example :
    dumpText f1Cache =
      [0x7b, 0x0a, 0x09, 0x22, 0x41, 0x63, 0x63, 0x20, 0x58, 0x22, 0x3a, 0x20, 0x31, 0x2c, 0x0a, 0x09, 0x22, 0x41, 0x63,
        0x63, 0x20, 0x59, 0x22, 0x3a, 0x20, 0x2d, 0x31, 0x2c, 0x0a, 0x09, 0x22, 0x41, 0x63, 0x63, 0x20, 0x5a, 0x22, 0x3a,
        0x20, 0x31, 0x36, 0x33, 0x38, 0x34, 0x2c, 0x0a, 0x09, 0x22, 0x47, 0x79, 0x72, 0x6f, 0x20, 0x52, 0x6f, 0x6c, 0x6c,
        0x22, 0x3a, 0x20, 0x30, 0x2c, 0x0a, 0x09, 0x22, 0x47, 0x79, 0x72, 0x6f, 0x20, 0x50, 0x69, 0x74, 0x63, 0x68, 0x22,
        0x3a, 0x20, 0x30, 0x2c, 0x0a, 0x09, 0x22, 0x47, 0x79, 0x72, 0x6f, 0x20, 0x59, 0x61, 0x77, 0x22, 0x3a, 0x20, 0x2d,
        0x35, 0x0a, 0x7d, 0x0a] := by decide +kernel

theorem test_dumpText_lengths :
    ((dumpText Cache.zero).length, (dumpText f1Cache).length,
      (dumpText ⟨0x8000, 0x8000, 0x8000, 0x8000, 0x8000, 0x8000⟩).length) = (93, 99, 123) := by decide +kernel

theorem test_emit_first_and_last :
    ((nextOf (blockStep p1 (emitting 0))).map (·.hist), (nextOf (blockStep p1 (emitting 93))).map (·.resp)) =
      (some [.text 0x7B], some (some ⟨.status, 0x0000⟩)) := by decide +kernel

/-! ### Reset and the response port (E-1, E-2, E-5, R36) -/

theorem test_reset_while_owning : (resetEvent requesting).hist = [.dir true, .dir false, .reset] := rfl

theorem test_reset_keeps_stream :
    ((resetEvent (receiving 4 [0x12])).rxq, (resetEvent (receiving 4 [0x12])).hist) = ([0x12], [.reset]) := by decide

theorem test_reset_keeps_contention : (resetEvent { sampled with contention := true }).contention = true := rfl

theorem test_take_response :
    (nextOf (hostMove { answered with hostq := [.takeResp] })).map (fun t => (t.resp, t.taken, t.hostq)) =
      some (none, [⟨.status, 0x0000⟩], []) := by decide

/-! ### The cache byte view (R47, R49) -/

theorem test_cacheRead :
    (cacheRead f1Cache 4 1, cacheRead f1Cache 5 1, cacheRead f1Cache 4 2, cacheRead f1Cache 5 2, cacheRead f1Cache 12 1) =
      (.ok 0x0000, .ok 0x0040, .ok 0x4000, .error .cacheViewAccess, .error .cacheViewAccess) := by decide

theorem test_source_path : sourceSample p1 Cache.zero (f1.take 12) = .ok f1Cache := by decide

/-! ### States that satisfy the invariant -/

theorem sampled_inv : BlockInv sampled := by constructor <;> decide

theorem answered_inv : BlockInv answered := by constructor <;> decide

theorem requesting_inv : BlockInv requesting := by constructor <;> decide

theorem turning_inv : BlockInv turning := by constructor <;> decide

theorem receiving_inv : BlockInv (receiving 11 [0x55]) := by constructor <;> decide

theorem delimiting_inv : BlockInv (delimiting [0x0A]) := by constructor <;> decide

theorem processing_inv : BlockInv (processing .dump) := by constructor <;> decide

theorem emitting_inv : BlockInv (emitting 93) := by constructor <;> decide

/-! ### For each statement with hypotheses, states and operands that meet them -/

theorem witness_AssemblerRoundTrip :
    ∀ l ∈ [AsmLine.blank, .cmd .dump, .getIndex 0, .getIndex 5, .getName .gyroYaw, .raw 0, .raw 255], l.wf = true := by
  decide

theorem witness_PseudoInstructionWords : 0 ≤ 5 ∧ 5 ≤ 5 ∧ 5 < 6 ∧ 255 ≤ 255 ∧ 255 < 256 := by decide

theorem witness_CommentsAndBlanksIgnored :
    AsmLine.wf (.raw 255) = true ∧ (∀ c ∈ [' ', '\t'], isBlankChar c = true) := ⟨rfl, by simp [isBlankChar]⟩

theorem witness_DecodeInvertsEncode :
    (∀ i : Instr, (0x0F : Byte) ≠ encode i) ∧ (∀ i : Instr, (0x16 : Byte) ≠ encode i) := by
  constructor <;> intro i <;> cases i <;> decide

theorem witness_AssertTakesBus :
    (sampled.phase = .idle ∧ sampled.resp = none ∧ BlockInv sampled) ∧
    ¬ (answered.phase = .idle ∧ answered.resp = none) ∧ ¬ (requesting.phase = .idle ∧ requesting.resp = none) :=
  ⟨⟨rfl, rfl, sampled_inv⟩, by decide, by decide⟩

theorem witness_RequestSendsOneByte :
    (requesting.phase = .reqTx ∧ requesting.txReady = true) ∧
    (∃ s : State, s.phase = .reqTx ∧ s.txReady = false) ∧ (∃ t, blockStep p1 requesting = .next t) :=
  ⟨⟨rfl, rfl⟩, ⟨{ requesting with txReady := false }, rfl, rfl⟩, ⟨_, rfl⟩⟩

theorem witness_ReleaseYieldsBus : turning.phase = .turn := rfl

theorem witness_RxDataStoresByte :
    (∀ n ∈ [0, 11], (receiving n [0x0A, 0x3C]).phase = .rxData ∧ (receiving n [0x0A, 0x3C]).rxq = 0x0A :: [0x3C] ∧
      (receiving n [0x0A, 0x3C]).rxCount < 12 ∧ Memory.wf (receiving n [0x0A, 0x3C]).fbuf = true) ∧
    ((receiving 0 []).phase = .rxData ∧ (receiving 0 []).rxq = [] ∧ p1Bounded.boundedWait = true) := by decide

theorem witness_RxDelimDiscardsOneByte :
    ((delimiting [0x0A, 0x0A]).phase = .rxDelim ∧ (delimiting [0x0A, 0x0A]).rxq = 0x0A :: [0x0A]) ∧
    ((delimiting []).phase = .rxDelim ∧ (delimiting []).rxq = [] ∧ p1Bounded.boundedWait = true) := by decide

theorem witness_UnansweredSampleWaits :
    p1.boundedWait = false ∧
    ∀ s ∈ [{ receiving 11 [] with sched := [.block, .host, .timeout, .txReady false] }, delimiting []],
      BlockInv s ∧ (s.phase = .rxData ∨ s.phase = .rxDelim) ∧ s.rxq = [] ∧
      ∀ m ∈ s.sched, m ≠ .reset ∧ ∀ b, m ≠ .rxArrive b := by
  refine ⟨rfl, ?_⟩
  intro s hs
  simp only [List.mem_cons, List.not_mem_nil, or_false] at hs
  rcases hs with rfl | rfl
  · exact ⟨by constructor <;> decide, .inl rfl, rfl, by simp⟩
  · exact ⟨by constructor <;> decide, .inr rfl, rfl, by simp [delimiting, State.reset]⟩

theorem witness_TimeoutEndsCommand :
    (∀ s ∈ [receiving 0 [], receiving 1 [], receiving 11 [], delimiting []],
      p1Bounded.boundedWait = true ∧ (s.phase = .rxData ∨ s.phase = .rxDelim) ∧ s.rxq = []) ∧
    ({ receiving 0 [] with sched := [.timeout] } : State).sched = .timeout :: [] ∧
    ¬ (p1.boundedWait = true ∧ ((receiving 0 []).phase = .rxData ∨ (receiving 0 []).phase = .rxDelim) ∧
      (receiving 0 []).rxq = []) ∧
    ¬ (p1Bounded.boundedWait = true ∧ ((receiving 0 [0x12]).phase = .rxData ∨ (receiving 0 [0x12]).phase = .rxDelim) ∧
      (receiving 0 [0x12]).rxq = []) := by decide

theorem witness_TimeoutAndArrivalEitherOrder :
    ∀ s ∈ [receiving 0 [], delimiting []],
      p1Bounded.boundedWait = true ∧ (s.phase = .rxData ∨ s.phase = .rxDelim) ∧ s.rxq = [] ∧ s.dir = false := by decide

theorem witness_ByteSwapExchangesBytes :
    (0xA5A5 : Word).extractLsb' 0 8 = (0xA5A5 : Word).extractLsb' 8 8 ∧ 0 < 16 ∧ 7 < 16 ∧ 8 < 16 ∧ 15 < 16 := by decide

theorem witness_LocalValueOfFrame :
    (f1.take 12).length = 12 ∧ Memory.wf f2Buffer = true ∧ 0 ≠ 2 * Channel.accY.index ∧
      0 ≠ 2 * Channel.accY.index + 1 := by decide

theorem witness_CacheByteViewLittleEndian : 12 ≤ 12 := by decide

theorem witness_CacheByteViewReadAfterWrite :
    0 < 12 ∧ 11 < 12 ∧ (10 < 12 ∧ 10 % 2 = 0) ∧
    (∀ an ∈ [(12, 1), (12, 2), (11, 2), (0, 0), (0, 3)],
      ¬ (an.2 = 1 ∧ an.1 < 12) ∧ ¬ (an.2 = 2 ∧ an.1 < 12 ∧ an.1 % 2 = 0)) := by decide

theorem witness_InPlaceDataPathEquivalence :
    [0x7F, 0xFF, 0x80, 0x00, 0xFF, 0xF9, 0x80, 0x00, 0x7F, 0xFF, 0xFF, (0xFC : Byte)].length = 12 ∧
    ∀ k, k < 12 → Memory.read f2Buffer k =
      [0x7F, 0xFF, 0x80, 0x00, 0xFF, 0xF9, 0x80, 0x00, 0x7F, 0xFF, 0xFF, (0xFC : Byte)].getD k 0 := by decide

theorem witness_TruncatingDivision : (2 : Int) ≠ 0 ∧ (-1 : Int) ≠ 0 := by decide

theorem witness_ScaleRangeAndSymmetry :
    (0x7FFF : Word) ≠ 0x8000 ∧ (((0xFFFF : Word).toInt.natAbs : Int) < divisor p2 .accX) ∧ divisor p1 .gyroYaw = 1 ∧
      divisor ⟨32768, 1, false⟩ .accZ = 32768 := by decide

theorem witness_ProcessCommitsFrame :
    ((processing .sample).phase = .process ∧ (processing .sample).cur = .sample) ∧
    ((processing .dump).phase = .process ∧ (processing .dump).cur ≠ .sample) := by decide

theorem witness_GetCommandsAnswerRegister :
    (sampled.phase = .idle ∧ sampled.resp = none) ∧
    (∃ s : State, BlockInv s ∧ s.phase = .idle ∧ s.resp = none ∧ s.valid = false) ∧
    timeoutEnabled p1Bounded (receiving 0 []) = true :=
  ⟨⟨rfl, rfl⟩, ⟨{ State.reset with rxq := [0x0A] }, by constructor <;> decide, rfl, rfl, rfl⟩, rfl⟩

theorem witness_AccessorsHaveNoSideEffect :
    (BlockInv sampled ∧ sampled.phase = .idle ∧ sampled.resp = none) ∧
    (∃ t, exec (Instr.get .accZ) sampled = .next t) ∧ (∃ t b, busRead (receiving 0 [0x12]) = some (b, t)) :=
  ⟨⟨sampled_inv, rfl, rfl⟩, ⟨_, rfl⟩, ⟨_, _, rfl⟩⟩

theorem witness_IllegalCodesAnswered :
    (∀ i : Instr, (0x17 : Byte) ≠ encode i) ∧ (∀ i : Instr, (0x00 : Byte) ≠ encode i) ∧
    (presentCommand 0x17 sampled).sched = .host :: [] ∧ (presentCommand 0x17 sampled).hostq = .cmd 0x17 :: [] ∧
    (presentCommand 0x17 sampled).phase = .idle ∧ (presentCommand 0x17 sampled).resp = none := by
  refine ⟨?_, ?_, rfl, rfl, rfl, rfl⟩ <;> intro i <;> cases i <;> decide

theorem witness_ClosedPortMakesHostWait :
    ¬ (answered.phase = .idle ∧ answered.resp = none) ∧
    ¬ ((emitting 3).phase = .idle ∧ (emitting 3).resp = none) ∧
    ({ answered with hostq := [.cmd 0x01] } : State).hostq = .cmd 0x01 :: [] := by decide

theorem witness_StepRunsDecodedCommand :
    ((presentCommand 0x15 sampled).sched = .host :: [] ∧ (presentCommand 0x15 sampled).hostq = .cmd 0x15 :: [] ∧
      (presentCommand 0x15 sampled).phase = .idle ∧ (presentCommand 0x15 sampled).resp = none ∧
      decode 0x15 = .ok .getGyroYaw) ∧
    (∃ s : State, s.sched = [] ∧ s.hostq = .cmd 0x01 :: [] ∧ s.phase = .idle ∧ s.resp = none ∧ decode 0x01 = .ok .sample) ∧
    Instr.wf .dump = true :=
  ⟨⟨rfl, rfl, rfl, rfl, rfl⟩, ⟨{ sampled with hostq := [.cmd 0x01] }, rfl, rfl, rfl, rfl, rfl⟩, rfl⟩

theorem witness_TakeResponseEmptiesRegister :
    (∃ s : State, s.hostq = .takeResp :: [] ∧ s.resp = some ⟨.status, 0x0000⟩) ∧
    (∃ s : State, s.hostq = .takeResp :: [] ∧ s.resp = none) :=
  ⟨⟨{ answered with hostq := [.takeResp] }, rfl, rfl⟩, ⟨{ sampled with hostq := [.takeResp] }, rfl, rfl⟩⟩

theorem witness_ArrivingByteIsQueued : (receiving 0 []).dir = false ∧ requesting.dir = true := ⟨rfl, rfl⟩

theorem witness_EmitWritesTextThenAnswers :
    ((emitting 92).phase = .emit ∧ (emitting 92).text[(emitting 92).tidx]? = some 0x0A ∧ (emitting 92).sinkReady = true) ∧
    (emitting 92).tidx < (emitting 92).text.length ∧ ({ emitting 92 with sinkReady := false } : State).sinkReady = false ∧
    (emitting 93).text.length ≤ (emitting 93).tidx := by decide

theorem witness_SampleRunCommitsFrame :
    frameWaiting.phase = .idle ∧ frameWaiting.resp = none ∧ frameWaiting.sched = [] ∧ frameWaiting.txReady = true ∧
      Memory.wf frameWaiting.fbuf = true ∧ frameWaiting.rxq = f1 ++ [0x0A] ∧ f1.length = 13 := by decide

theorem witness_DumpRunWritesText :
    frameWaiting.phase = .idle ∧ frameWaiting.resp = none ∧ frameWaiting.sched = [] ∧ frameWaiting.txReady = true ∧
      frameWaiting.sinkReady = true ∧ Memory.wf frameWaiting.fbuf = true ∧ frameWaiting.rxq = f1 ++ [0x0A] ∧
      f1.length = 13 := by decide

theorem witness_StepKeepsBlockInvariant :
    (BlockInv (emitting 93) ∧ ∃ t, stepWith p1 (emitting 93) = .next t) ∧
    (BlockInv (receiving 11 [0x55]) ∧ ∃ t, stepWith p1 (receiving 11 [0x55]) = .next t) ∧
    (BlockInv turning ∧ ∃ t, step turning = .next t) :=
  ⟨⟨emitting_inv, _, rfl⟩, ⟨receiving_inv, _, rfl⟩, ⟨turning_inv, _, rfl⟩⟩

theorem witness_StepKeepsHistoryOnProtocol :
    BlockInv turning ∧ HistFollowsProtocol turning ∧ ∃ t, stepWith p1 turning = .next t :=
  ⟨turning_inv, rfl, _, rfl⟩

theorem witness_NoStepFaults : BlockInv (receiving 11 [0x55]) ∧ BlockInv (processing .dump) :=
  ⟨receiving_inv, processing_inv⟩

theorem witness_OnlyDefinedStatusesProduced :
    (∃ t, stepWith p1 (presentCommand 0x16 sampled) = .next t ∧ HistEvent.resp ⟨.status, 0x0004⟩ ∈ t.hist ∧
      t.resp = some ⟨.status, 0x0004⟩) ∧
    ∃ s : State, HistFollowsProtocol s ∧ HistEvent.resp ⟨.status, 0x0004⟩ ∈ s.hist :=
  ⟨⟨_, rfl, by decide, rfl⟩, { sampled with hist := [.resp ⟨.status, 0x0004⟩] }, rfl, by decide⟩

theorem witness_OnlyRequestByteSent :
    (∃ t, stepWith p1 requesting = .next t) ∧ (∃ t, stepWith p1 turning = .next t) := ⟨⟨_, rfl⟩, ⟨_, rfl⟩⟩

theorem witness_OwnershipChangesHands :
    (BlockInv requesting ∧ ∃ t, stepWith p1 requesting = .next t ∧ busOf t.hist ≠ busOf requesting.hist) ∧
    (BlockInv turning ∧ ∃ t, stepWith p1 turning = .next t ∧ t.dir ≠ turning.dir) ∧
    (∃ s t, BlockInv s ∧ stepWith p1 s = .next t ∧ t.dir ≠ s.dir ∧ s.phase = .idle) ∧
    (∃ s t, BlockInv s ∧ stepWith p1 s = .next t ∧ t.dir ≠ s.dir ∧ nextMove s = .reset) :=
  ⟨⟨requesting_inv, _, rfl, by decide⟩, ⟨turning_inv, _, rfl, by decide⟩,
    ⟨presentCommand 0x01 sampled, _, by constructor <;> decide, rfl, by decide, rfl⟩,
    ⟨{ requesting with sched := [.reset] }, _, by constructor <;> decide, rfl, by decide, rfl⟩⟩

theorem witness_CacheWrittenOnlyByCommit : ∃ t, stepWith p2 (processing .sample) = .next t := ⟨_, rfl⟩

theorem witness_ReceiveStreamIsFifo :
    (∃ t, stepWith p1 (receiving 0 [0x12]) = .next t) ∧
    (∃ t, stepWith p1 { receiving 0 [0x12] with sched := [.rxArrive 0x34] } = .next t) := ⟨⟨_, rfl⟩, ⟨_, rfl⟩⟩

theorem witness_FrameBufferFrame :
    BlockInv (receiving 11 [0x55]) ∧ nextMove (receiving 11 [0x55]) ≠ .reset ∧
    ∃ t, stepWith p1 (receiving 11 [0x55]) = .next t ∧ Memory.read t.fbuf 11 ≠ Memory.read (receiving 11 [0x55]).fbuf 11 :=
  ⟨receiving_inv, by decide, _, rfl, by decide⟩

theorem witness_HistoryAppendOnly : ∃ t, stepWith p1 requesting = .next t := ⟨_, rfl⟩

theorem witness_ModelFlagsNeverRead :
    (∃ t, stepWith p1 requesting = .next t) ∧
    (∃ r, stepWith p1 (receiving 12 [0x55]) = .fault r) := ⟨⟨_, rfl⟩, ⟨_, rfl⟩⟩

theorem witness_ContentionIsSticky :
    (∃ s t, stepWith p1 s = .next t ∧ NoContention t) ∧
    (∃ s t, stepWith p1 s = .next t ∧ NoContention s ∧ ¬ NoContention t) :=
  ⟨⟨requesting, _, rfl, rfl⟩,
    ⟨{ requesting with sched := [.rxArrive 0x55] }, _, rfl, rfl, fun h => Bool.noConfusion h⟩⟩

theorem witness_UnboundedRunsAreBoundedRuns :
    ∀ m ∈ ({ receiving 0 [] with sched := [.block, .rxArrive 0x12, .reset] } : State).sched, m ≠ .timeout := by decide

/-- A run ends where the host still means to take a response, and does not end where it has a code left (R155). -/
theorem witness_EndedRunStays :
    (RunEnded sampled ∧ sampled.sched = []) ∧
    RunEnded { sampled with hostq := [.takeResp] } ∧ ¬ RunEnded { sampled with hostq := [.takeResp, .cmd 0x10] } :=
  ⟨⟨⟨by simp [sampled, State.reset], rfl, rfl⟩, rfl⟩, ⟨by simp, rfl, rfl⟩, fun h => h.1 0x10 (by simp)⟩

theorem witness_ValidClearedOnlyByReset :
    (∃ s t, stepWith p1 s = .next t ∧ s.valid = true ∧ t.valid = false ∧ nextMove s = .reset) ∧
    (∃ s t, stepWith p1 s = .next t ∧ s.valid = false ∧ t.valid = true) :=
  ⟨⟨{ State.reset with valid := true, sched := [.reset] }, _, rfl, rfl, rfl, rfl⟩,
    ⟨{ State.reset with phase := .process, cur := .sample }, _, rfl, rfl, rfl⟩⟩

end Sys2Proof.Tests
end

section
/-! The commands `GET_*` at the command port, for every channel at once (R57, R106). -/

namespace Sys2Proof.Machine

/-- Each `GET_*` is one command at the port, the answer with its channel's register. -/
theorem exec_get (ch : Channel) (s : State) : exec (Instr.get ch) s = accept (respondChannel ch) s := by
  cases ch <;> rfl

theorem exec_get_open (ch : Channel) {s : State} (hphase : s.phase = .idle) (hresp : s.resp = none) :
    exec (Instr.get ch) s = .next (respondChannel ch s) := by
  rw [exec_get, accept_open ((cmdEnabled_iff s).mpr ⟨hphase, hresp⟩)]

/-- What a `GET_*` can do: answer its register, or leave the host waiting (R35). -/
theorem exec_get_cases {ch : Channel} {s t : State} (h : exec (Instr.get ch) s = .next t) :
    t = respondChannel ch s ∨ t = s := by
  rw [exec_get] at h
  obtain ⟨_, ht⟩ | ⟨_, ht⟩ := accept_next h
  · exact .inl ht
  · exact .inr ht

/-- Where the block is idle with no current command, completing the command sets `resp` and no other block state. -/
theorem respondChannel_of_idle (ch : Channel) {s : State} (hphase : s.phase = .idle) (hcur : s.cur = .none) :
    respondChannel ch s = { s with
      resp := some ⟨.value, s.cache.get ch⟩, hist := s.hist ++ [.resp ⟨.value, s.cache.get ch⟩] } := by
  simp only [respondChannel, respond, ← hphase, ← hcur]

/-- Recording a response records no byte written to the bus. -/
@[simp] theorem txCount_append_resp (h : List HistEvent) (r : Response) : txCount (h ++ [.resp r]) = txCount h := by
  simp [txCount]

/-- What a `GET_*` leaves unchanged, in any state. -/
theorem exec_get_frame {ch : Channel} {s t : State} (h : exec (Instr.get ch) s = .next t) :
    txCount t.hist = txCount s.hist ∧ t.cache = s.cache ∧ t.dir = s.dir ∧ t.rxq = s.rxq := by
  obtain rfl | rfl := exec_get_cases h
  · simp
  · exact ⟨rfl, rfl, rfl, rfl⟩

/-- Once its response is taken, a `GET_*` finds the port open and answers the same register again. -/
theorem exec_get_repeats (ch : Channel) {s : State} (hphase : s.phase = .idle) (hresp : s.resp = none) :
    ∃ t u, exec (Instr.get ch) s = .next t ∧ exec (Instr.get ch) { t with resp := none } = .next u ∧
      u.resp = t.resp := by
  refine ⟨respondChannel ch s, _, exec_get_open ch hphase hresp, exec_get_open ch ?_ rfl, ?_⟩
  · exact respondChannel_phase s ch
  · simp

/-- Settles O26: each `GET_*` is `accept (respondChannel ch)`, whose frame the lemmas above give, and a read of the bus
takes the head of the stream (`busRead_some`). -/
theorem accessorsHaveNoSideEffect : Obligations.AccessorsHaveNoSideEffect := by
  refine ⟨?opened, fun _ _ _ h => exec_get_frame h, fun ch _ hphase hresp => exec_get_repeats ch hphase hresp, ?read⟩
  case opened =>
    intro ch s hinv hphase hresp
    rw [exec_get_open ch hphase hresp, respondChannel_of_idle ch hphase (hinv.running.mpr hphase)]
  case read =>
    intro s t b h
    obtain ⟨q, hq, rfl⟩ := busRead_some h
    exact hq

end Sys2Proof.Machine
end

section
/-! The bytes written to the bus: what each event of the history adds to them, and the one move that writes one (R37, R74). -/

namespace Sys2Proof.Machine

@[simp] theorem busOf_append (h h' : List HistEvent) : busOf (h ++ h') = busOf h ++ busOf h' :=
  List.filterMap_append

@[simp] theorem busOf_nil : busOf [] = [] := rfl
@[simp] theorem busOf_tx_cons (b : Byte) (h : List HistEvent) : busOf (.tx b :: h) = b :: busOf h := rfl
@[simp] theorem busOf_dir_cons (v : Bool) (h : List HistEvent) : busOf (.dir v :: h) = busOf h := rfl
@[simp] theorem busOf_rx_cons (b : Byte) (h : List HistEvent) : busOf (.rx b :: h) = busOf h := rfl
@[simp] theorem busOf_text_cons (b : Byte) (h : List HistEvent) : busOf (.text b :: h) = busOf h := rfl
@[simp] theorem busOf_resp_cons (r : Response) (h : List HistEvent) : busOf (.resp r :: h) = busOf h := rfl
@[simp] theorem busOf_reset_cons (h : List HistEvent) : busOf (.reset :: h) = busOf h := rfl

/-- Reset releases a held line and records itself, and writes no byte (R141). -/
theorem busOf_resetEvent (s : State) : busOf (resetEvent s).hist = busOf s.hist := by
  cases hdir : s.dir <;> simp [hdir]

/-- A step has an effect of the next move, on the state with that move taken from the schedule. -/
theorem stepWith_effect {p : Config.Params} {s t : State} (h : stepWith p s = .next t) :
    MoveEffect p (nextMove s) { s with sched := s.sched.tail } t := by
  obtain ⟨hsched, hstep⟩ | ⟨m, r, hsched, hstep⟩ := stepWith_eq p s
  · have hstate : { s with sched := s.sched.tail } = s := by
      rw [hsched, List.tail_nil, ← hsched]
    have hmove : nextMove s = defaultMove s := by
      simp [nextMove, hsched]
    rw [hstate, hmove]
    exact moveWith_effect (hstep ▸ h)
  · have hmove : nextMove s = m := by
      simp [nextMove, hsched]
    rw [hmove, hsched]
    exact moveWith_effect (hstep ▸ h)

/-- Only REQUEST writes to the bus, and it writes the request byte (R74, R79). -/
theorem MoveEffect.busOf_hist {p : Config.Params} {m : Move} {s t : State} (h : MoveEffect p m s t) :
    busOf t.hist = busOf s.hist ∨
      (m = .block ∧ s.phase = .reqTx ∧ busOf t.hist = busOf s.hist ++ [Config.reqByte]) := by
  cases h with
  | request _ hphase _ => exact .inr ⟨rfl, hphase, by simp⟩
  | stay | release | rxData | rxDelim | processSample | processDump | emitByte | emitEnd | assert | get | illegal | take
  | arrive | timeout | txReady | sinkReady => exact .inl (by simp)
  | reset => exact .inl (busOf_resetEvent s)

/-- Settles O44: a step makes one move, and the one move that writes to the bus is REQUEST, with the request byte. -/
theorem onlyRequestByteSent : Obligations.OnlyRequestByteSent := by
  intro p s t h
  obtain hkept | ⟨_, _, hsent⟩ := (stepWith_effect h).busOf_hist
  · exact .inl hkept
  · exact .inr hsent

end Sys2Proof.Machine
end

section
/-! The cache byte view, byte by byte: an offset below 12 names one byte of one register, a write of one byte changes that
byte alone, and the source's receive writes its bytes to consecutive offsets (R47, R49, R90). -/

namespace Sys2Proof.Machine

/-- The offset of a byte of a channel's register in the cache byte view: the low byte at the even offset (R47). -/
def byteOffset (ch : Channel) (odd : Bool) : Nat := 2 * ch.index + odd.toNat

@[simp] theorem byteOffset_false (ch : Channel) : byteOffset ch false = 2 * ch.index := rfl
@[simp] theorem byteOffset_true (ch : Channel) : byteOffset ch true = 2 * ch.index + 1 := rfl

theorem byteOffset_div_two (ch : Channel) (odd : Bool) : byteOffset ch odd / 2 = ch.index := by
  rw [byteOffset, Nat.mul_add_div two_pos, Nat.div_eq_of_lt (Bool.toNat_lt odd), Nat.add_zero]

theorem byteOffset_mod_two (ch : Channel) (odd : Bool) : byteOffset ch odd % 2 = odd.toNat := by
  rw [byteOffset, Nat.mul_add_mod, Nat.mod_eq_of_lt (Bool.toNat_lt odd)]

/-- The parity that the byte view computes from an offset. -/
theorem decide_byteOffset_odd (ch : Channel) (odd : Bool) : decide (byteOffset ch odd % 2 = 1) = odd := by
  rw [byteOffset_mod_two]
  cases odd <;> rfl

theorem byteOffset_lt (ch : Channel) (odd : Bool) : byteOffset ch odd < 12 := by
  cases ch <;> cases odd <;> decide

/-- Different bytes have different offsets. -/
theorem byteOffset_inj {ch ch' : Channel} {odd odd' : Bool} :
    byteOffset ch odd = byteOffset ch' odd' ↔ ch = ch' ∧ odd = odd' := by
  constructor
  · intro h
    have hindex : ch.index = ch'.index := by rw [← byteOffset_div_two ch odd, h, byteOffset_div_two]
    have hodd : odd = odd' := by rw [← decide_byteOffset_odd ch odd, h, decide_byteOffset_odd]
    have hch : some ch = some ch' := by rw [← ofIndex_index ch, hindex, ofIndex_index]
    exact ⟨Option.some.inj hch, hodd⟩
  · rintro ⟨rfl, rfl⟩
    rfl

/-- Each index below 6 names a channel (R21). -/
theorem exists_index {i : Nat} (h : i < 6) : ∃ ch : Channel, ch.index = i := by
  interval_cases i
  exacts [⟨.accX, rfl⟩, ⟨.accY, rfl⟩, ⟨.accZ, rfl⟩, ⟨.gyroRoll, rfl⟩, ⟨.gyroPitch, rfl⟩, ⟨.gyroYaw, rfl⟩]

/-- Each offset below 12 is the offset of a byte of a register. -/
theorem exists_byteOffset {a : Nat} (h : a < 12) : ∃ ch odd, a = byteOffset ch odd := by
  obtain ⟨ch, hch⟩ := exists_index (show a / 2 < 6 by omega)
  obtain heven | hodd := Nat.mod_two_eq_zero_or_one a
  · exact ⟨ch, false, by rw [byteOffset_false, hch]; omega⟩
  · exact ⟨ch, true, by rw [byteOffset_true, hch]; omega⟩

/-- Replacing one byte of a register leaves its other byte. -/
theorem wordByte_setWordByte (v : Word) (b : Byte) (odd odd' : Bool) :
    wordByte (setWordByte v odd b) odd' = if odd' = odd then b else wordByte v odd' := by
  cases odd <;> cases odd' <;> simp [wordByte, setWordByte, low_of_append, high_of_append]

/-- A one-byte write sets one byte of one register (R49). -/
theorem cacheWrite_byteOffset (c : Cache) (ch : Channel) (odd : Bool) (v : Word) :
    cacheWrite c (byteOffset ch odd) 1 v =
      .ok (c.set ch (setWordByte (c.get ch) odd (v.extractLsb' 0 8))) := by
  simp only [cacheWrite, byteOffset_div_two, ofIndex_index, decide_byteOffset_odd, if_true]

/-- A two-byte read at a register's offset gives its two bytes, high first (R49). -/
theorem cacheRead_register (c : Cache) (ch : Channel) :
    cacheRead c (2 * ch.index) 2 = .ok (wordByte (c.get ch) true ++ wordByte (c.get ch) false) := by
  have hdiv : 2 * ch.index / 2 = ch.index := byteOffset_div_two ch false
  simp [cacheRead, hdiv]

/-- After one byte is set, the byte at its offset is the new one and every other byte is as before. -/
theorem wordByte_set_setWordByte (c : Cache) (ch ch' : Channel) (odd odd' : Bool) (b : Byte) :
    wordByte ((c.set ch (setWordByte (c.get ch) odd b)).get ch') odd' =
      if byteOffset ch' odd' = byteOffset ch odd then b else wordByte (c.get ch') odd' := by
  rw [get_set]
  by_cases hch : ch' = ch
  · subst hch
    simp [wordByte_setWordByte, byteOffset_inj]
  · simp [hch, byteOffset_inj]

/-- A byte widened to 16 bits has itself as its low byte. -/
theorem low_of_setWidth (b : Byte) : (b.setWidth 16).extractLsb' 0 8 = b := by
  apply BitVec.eq_of_getLsbD_eq
  intro i hi
  simp [hi, show i < 16 by omega]

/-- Bytes received from offset `a` on stand at `a`, `a + 1` and so on, in arrival order; every other byte of the cache is
as before (R90). -/
theorem sourceReceive_bytes (bytes : List Byte) : ∀ (c : Cache) (a : Nat), a + bytes.length ≤ 12 →
    ∃ c', sourceReceive c a bytes = .ok c' ∧ ∀ ch odd, wordByte (c'.get ch) odd =
      if a ≤ byteOffset ch odd ∧ byteOffset ch odd < a + bytes.length then bytes.getD (byteOffset ch odd - a) 0
      else wordByte (c.get ch) odd := by
  induction bytes with
  | nil => exact fun c a _ => ⟨c, rfl, fun ch odd => (if_neg (by simp)).symm⟩
  | cons b bs ih =>
    intro c a hfits
    rw [List.length_cons] at hfits ⊢
    obtain ⟨ch₀, odd₀, rfl⟩ := exists_byteOffset (show a < 12 by omega)
    obtain ⟨c', hrest, hbytes⟩ := ih (c.set ch₀ (setWordByte (c.get ch₀) odd₀ b)) (byteOffset ch₀ odd₀ + 1) (by omega)
    refine ⟨c', ?_, fun ch odd => ?_⟩
    · simpa only [sourceReceive, cacheWrite_byteOffset, low_of_setWidth] using hrest
    · rw [hbytes, wordByte_set_setWordByte]
      obtain hbelow | hat | habove := Nat.lt_trichotomy (byteOffset ch odd) (byteOffset ch₀ odd₀)
      · rw [if_neg (by omega), if_neg (by omega), if_neg (by omega)]
      · simp [hat]
      · have hshift : byteOffset ch odd - byteOffset ch₀ odd₀ = byteOffset ch odd - (byteOffset ch₀ odd₀ + 1) + 1 := by
          omega
        rw [hshift, List.getD_cons_succ]
        exact if_congr (by omega) rfl (if_neg (by omega))

/-- The source's receive of the twelve data bytes fills the whole cache memory: each byte at its own offset (R90). -/
theorem sourceReceive_frame (c : Cache) {bytes : List Byte} (h : bytes.length = 12) :
    ∃ c', sourceReceive c 0 bytes = .ok c' ∧
      ∀ ch odd, wordByte (c'.get ch) odd = bytes.getD (byteOffset ch odd) 0 := by
  obtain ⟨c', hreceive, hbytes⟩ := sourceReceive_bytes bytes c 0 (by omega)
  refine ⟨c', hreceive, fun ch odd => ?_⟩
  have hlt := byteOffset_lt ch odd
  rw [hbytes, if_pos (by omega), Nat.sub_zero]

end Sys2Proof.Machine
end

section
/-! The byte-order converter and the local value of a channel (R92, R93). -/

namespace Sys2Proof.Machine

theorem bswap16_append (a b : Byte) : bswap16 (a ++ b : Word) = b ++ a := by
  rw [bswap16, low_of_append, high_of_append]

/-- Bit by bit: the low eight bits are the high byte's, the high eight the low byte's (R92). -/
theorem getLsbD_bswap16 (x : Word) {i : Nat} (hi : i < 16) :
    (bswap16 x).getLsbD i = x.getLsbD (if i < 8 then i + 8 else i - 8) := by
  simp only [bswap16, BitVec.getLsbD_append, BitVec.getLsbD_extractLsb']
  by_cases hlow : i < 8
  · simp [hlow, Nat.add_comm]
  · have hhigh : i - 8 < 8 := by omega
    simp [hlow, hhigh]

theorem bswap16_of_equal_bytes {x : Word} (h : x.extractLsb' 0 8 = x.extractLsb' 8 8) : bswap16 x = x :=
  calc bswap16 x = x.extractLsb' 8 8 ++ x.extractLsb' 0 8 := by rw [bswap16, h]
    _ = x := append_of_bytes x

/-- Settles O15: the bits of an appended pattern, and that a value is its own two bytes. -/
theorem byteSwapExchangesBytes : Obligations.ByteSwapExchangesBytes :=
  ⟨fun _ => rfl, fun x _ hi => getLsbD_bswap16 x hi, fun _ h => bswap16_of_equal_bytes h, by decide⟩

/-- The first form of R93: the raw slot, read little-endian, swapped. -/
theorem localValue_eq_bswap16 (m : Memory) (ch : Channel) :
    localValue m ch = bswap16 (Memory.read m (2 * ch.index + 1) ++ Memory.read m (2 * ch.index)) := by
  rw [bswap16_append, localValue]

/-- A local value depends on no offset but its channel's two (R93). -/
theorem localValue_write_other {m : Memory} {ch : Channel} {k : Nat} (b : Byte) (hwf : Memory.wf m = true)
    (heven : k ≠ 2 * ch.index) (hodd : k ≠ 2 * ch.index + 1) : localValue (Memory.write m k b) ch = localValue m ch := by
  simp only [localValue, Memory.read_write _ _ _ hwf, if_neg heven.symm, if_neg hodd.symm]

/-- The delimiter is read and stored nowhere (R86, R93). -/
@[simp] theorem stepRxDelim_fbuf (s : State) : (stepRxDelim s).fbuf = s.fbuf := by
  obtain ⟨_, hwait⟩ | ⟨_, _, _, hread⟩ := stepRxDelim_cases s
  · rw [hwait]
  · rw [hread]

/-- Settles O17: the raw slot of the source is the two bytes at the channel's offsets (`sourceReceive_frame`), and the local
value is their swap (`bswap16_append`). -/
theorem localValueOfFrame : Obligations.LocalValueOfFrame := by
  refine ⟨fun m ch => ⟨rfl, localValue_eq_bswap16 m ch⟩, ?rawSlot,
    fun _ _ _ b hwf heven hodd => localValue_write_other b hwf heven hodd, stepRxDelim_fbuf⟩
  case rawSlot =>
    intro c bytes ch hlen
    obtain ⟨c', hreceive, hbytes⟩ := sourceReceive_frame c hlen
    refine ⟨c', hreceive, ?_⟩
    rw [cacheRead_register, hbytes, hbytes, byteOffset_true, byteOffset_false]

end Sys2Proof.Machine
end

section
/-! The fixed-point scaler: the division that truncates toward zero, and the divisor of a channel (R97, R98, R100). -/

namespace Sys2Proof.Machine

theorem tdiv_neg_left (a b : Int) : tdiv (-a) b = -tdiv a b := by
  simp only [tdiv, Int.sign_neg, Int.natAbs_neg, neg_mul]

theorem tdiv_neg_right (a b : Int) : tdiv a (-b) = -tdiv a b := by
  simp only [tdiv, Int.sign_neg, Int.natAbs_neg, mul_neg, neg_mul]

/-- On magnitudes both signs are 1, or the quotient is 0. -/
theorem tdiv_natCast (m n : Nat) : tdiv m n = ((m / n : Nat) : Int) := by
  obtain rfl | hm := eq_or_ne m 0
  · simp [tdiv]
  obtain rfl | hn := eq_or_ne n 0
  · simp [tdiv]
  simp only [tdiv, Int.sign_natCast_of_ne_zero hm, Int.sign_natCast_of_ne_zero hn, Int.natAbs_natCast, one_mul]

/-- R97's formula is the library's truncating division: the two agree on magnitudes, and both are odd in each operand. -/
theorem tdiv_eq_intTdiv (a b : Int) : tdiv a b = Int.tdiv a b := by
  have hnat (m n : Nat) : tdiv m n = Int.tdiv m n := (tdiv_natCast m n).trans (Int.ofNat_tdiv m n)
  obtain ⟨m, rfl | rfl⟩ := a.eq_nat_or_neg <;> obtain ⟨n, rfl | rfl⟩ := b.eq_nat_or_neg
  · exact hnat m n
  · rw [tdiv_neg_right, Int.tdiv_neg, hnat]
  · rw [tdiv_neg_left, Int.neg_tdiv, hnat]
  · rw [tdiv_neg_left, tdiv_neg_right, Int.neg_tdiv, Int.tdiv_neg, hnat]

/-- The quotient of the magnitudes in R97's formula is the floor of their rational quotient. -/
theorem natAbs_div_eq_floor (a b : Int) :
    ((a.natAbs / b.natAbs : Nat) : Int) = ⌊((|a| : Int) : ℚ) / ((|b| : Int) : ℚ)⌋ := by
  rw [Int.abs_eq_natAbs, Int.abs_eq_natAbs, Int.cast_natCast, Int.cast_natCast, Rat.floor_natCast_div_natCast,
    Int.natCast_div]

/-- Settles O21: the formula and the library's division agree for every divisor, so the premise `b ≠ 0` is not needed. -/
theorem truncatingDivision : Obligations.TruncatingDivision :=
  ⟨fun a b _ => by rw [tdiv, natAbs_div_eq_floor], fun a b _ => tdiv_eq_intTdiv a b, by decide⟩

/-- The quotient by a divisor that is not negative lies between the dividend and 0. -/
theorem tdiv_mem_between {a d : Int} (hd : 0 ≤ d) : min a 0 ≤ tdiv a d ∧ tdiv a d ≤ max a 0 := by
  have hnonneg {x : Int} (hx : 0 ≤ x) : 0 ≤ tdiv x d ∧ tdiv x d ≤ x := by
    rw [tdiv_eq_intTdiv]
    exact ⟨Int.tdiv_nonneg hx hd, Int.tdiv_le_self d hx⟩
  obtain ha | ha := le_total 0 a
  · have := hnonneg ha
    omega
  · have := hnonneg (Int.neg_nonneg_of_nonpos ha)
    rw [tdiv_neg_left] at this
    omega

/-- The channels 0 to 2 are the accelerometer's (R21, R98). -/
theorem divisor_eq (p : Config.Params) (ch : Channel) :
    divisor p ch = if ch.index ≤ 2 then ((p.sa : Nat) : Int) else ((p.sg : Nat) : Int) := by
  cases ch <;> rfl

theorem divisor_pos (p : Config.Params) (ch : Channel) : 0 < divisor p ch := by
  rw [divisor_eq]
  split
  · exact Int.natCast_pos.mpr p.sa.pos
  · exact Int.natCast_pos.mpr p.sg.pos

/-- Nothing is lost to the 16 bits (R100): the divisor is positive, so the one quotient out of range, `-32768` by `-1`,
does not occur. -/
theorem toInt_scale (p : Config.Params) (ch : Channel) (v : Word) :
    (scale p ch v).toInt = tdiv v.toInt (divisor p ch) := by
  obtain ⟨hlow, hhigh⟩ := tdiv_mem_between (a := v.toInt) (divisor_pos p ch).le
  have hvlow := v.le_toInt
  have hvhigh := v.toInt_lt
  exact BitVec.toInt_ofInt_eq_self (by decide) (by omega) (by omega)

/-- Settles O22: nothing is lost (`toInt_scale`), and the divisor is `SA` or `SG` by the index, and positive. -/
theorem scaleDividesBySensitivity : Obligations.ScaleDividesBySensitivity := by
  refine ⟨fun p ch v => ?quotient, fun p ch => (divisor_pos p ch).ne', fun sg w => ?exampleValue⟩
  case quotient => rw [toInt_scale, divisor_eq]
  case exampleValue =>
    have hdividend : (BitVec.ofInt 16 (-7)).toInt = -7 := by decide
    have hdivisor : divisor ⟨2, sg, w⟩ .accX = 2 := rfl
    rw [toInt_scale, hdividend, hdivisor]
    decide

end Sys2Proof.Machine
end

section
/-! The meaning of the six `GET_*` commands, proved once for every channel: the code, and the register that answers before
any sample and after a sample that timed out (R109 to R114). -/

namespace Sys2Proof.Machine

/-- The word of a `GET_*` decodes to it: the opcode field selects the format, the channel field the channel (R64, R66). -/
theorem decode_encodeGet (ch : Channel) : decode (encodeGet ch) = .ok (Instr.get ch) := by
  cases ch <;> rfl

/-- Before the first successful sample every register reads `0x0000` (R44). -/
@[simp] theorem Cache.get_zero (ch : Channel) : Cache.zero.get ch = 0x0000 := by
  cases ch <;> rfl

/-- At an open port a `GET_*` answers its register. -/
theorem exec_get_answers (ch : Channel) {s : State} (hphase : s.phase = .idle) (hresp : s.resp = none) :
    ∃ t, exec (Instr.get ch) s = .next t ∧ t.resp = some ⟨.value, s.cache.get ch⟩ :=
  ⟨respondChannel ch s, exec_get_open ch hphase hresp, respondChannel_resp s ch⟩

/-- An enabled timeout completes the command with its status and so touches no register (R91, R130). -/
theorem stepTimeout_of_enabled {p : Config.Params} {s : State} (h : timeoutEnabled p s = true) :
    stepTimeout p s = raiseErr (timeoutStatus s) s := by
  rw [stepTimeout, if_pos h]

/-- What R109 to R114 say, for every channel at once: the command is `respondChannel` at the open port (`exec_get_open`),
and the register it reads is 0 until a sample commits (`BlockInv.unsampled`) and kept by a timeout. -/
theorem getMeaning_get (ch : Channel) : GetMeaning (Instr.get ch) ch (encodeGet ch) where
  decodes := decode_encodeGet ch
  answers _ hphase hresp := exec_get_open ch hphase hresp
  beforeSample s hinv hphase hresp hvalid := by
    have hzero : s.cache.get ch = 0x0000 := by rw [hinv.unsampled hvalid, Cache.get_zero]
    exact hzero ▸ exec_get_answers ch hphase hresp
  afterTimeout p s henabled := by
    rw [stepTimeout_of_enabled henabled]
    exact exec_get_answers ch (raiseErr_phase s (timeoutStatus s)) rfl
  repeats _ hphase hresp := exec_get_repeats ch hphase hresp

/-- Settles O25: `getMeaning_get` at each channel, whose command and code are the ones named. -/
theorem getCommandsAnswerRegister : Obligations.GetCommandsAnswerRegister :=
  ⟨getMeaning_get .accX, getMeaning_get .accY, getMeaning_get .accZ, getMeaning_get .gyroRoll,
    getMeaning_get .gyroPitch, getMeaning_get .gyroYaw⟩

end Sys2Proof.Machine
end

section
/-! The layout of the dump text: the six lines of `DumpText` in channel order, and how each line ends (R117, R118). -/

namespace Sys2Proof.Machine

/-- The text lists one line for each channel, in the order of the channel indices, between its braces (R117). -/
theorem dumpText_eq_lines (c : Cache) : dumpText c =
    [0x7B, 0x0A] ++ dumpLine c .accX ++ dumpLine c .accY ++ dumpLine c .accZ ++ dumpLine c .gyroRoll ++
      dumpLine c .gyroPitch ++ dumpLine c .gyroYaw ++ [0x7D, 0x0A] := by
  simp only [dumpText, Channel.all, List.flatMap_cons, List.flatMap_nil, List.append_nil, List.append_assoc]

/-- A value that is not the last is followed by a comma (R117). -/
theorem lineEnd_of_ne_last {ch : Channel} (h : ch ≠ .gyroYaw) : lineEnd ch = [0x2C, 0x0A] := by
  cases ch with
  | accX | accY | accZ | gyroRoll | gyroPitch => rfl
  | gyroYaw => exact absurd rfl h

theorem dumpLine_of_ne_last (c : Cache) {ch : Channel} (h : ch ≠ .gyroYaw) :
    dumpLine c ch = [0x09, 0x22] ++ dumpKey ch ++ [0x22, 0x3A, 0x20] ++ dec (c.get ch) ++ [0x2C, 0x0A] := by
  rw [dumpLine, lineEnd_of_ne_last h]

/-- The line of the last channel ends without a comma (R117). -/
theorem dumpLine_last (c : Cache) : dumpLine c .gyroYaw =
    [0x09, 0x22] ++ dumpKey .gyroYaw ++ [0x22, 0x3A, 0x20] ++ dec c.gyroYaw ++ [0x0A] := rfl

/-- Settles O34: the text is its six lines between the braces (`dumpText_eq_lines`), the first five with a comma
(`dumpLine_of_ne_last`) and the last without (`dumpLine_last`); `dumpKey` and `Cache.get` name the bytes of each. -/
theorem dumpTextLayout : Obligations.DumpTextLayout := by
  intro c
  rw [dumpText_eq_lines,
    dumpLine_of_ne_last c (ch := .accX) (by decide), dumpLine_of_ne_last c (ch := .accY) (by decide),
    dumpLine_of_ne_last c (ch := .accZ) (by decide), dumpLine_of_ne_last c (ch := .gyroRoll) (by decide),
    dumpLine_of_ne_last c (ch := .gyroPitch) (by decide), dumpLine_last]
  simp only [dumpKey, Cache.get]

end Sys2Proof.Machine
end

section
/-! The block's invariant: the operations that keep it, and that every step does, whatever the parameters (R26, R28,
R44, R81). -/

namespace Sys2Proof.Machine

/-- Away from `REQ_TX` and `TURN` the bus is not owned (R81). -/
theorem BlockInv.dir_eq_false {s : State} (inv : BlockInv s) (hreq : s.phase ≠ .reqTx) (hturn : s.phase ≠ .turn) :
    s.dir = false := by
  rw [← Bool.not_eq_true, inv.owns]
  exact not_or.mpr ⟨hreq, hturn⟩

/-- A response stands only while the block is idle (R30). -/
theorem BlockInv.resp_eq_none {s : State} (inv : BlockInv s) (h : s.phase ≠ .idle) : s.resp = none := by
  rw [← Option.not_isSome_iff_eq_none]
  exact fun hsome => h (inv.answered hsome)

/-- What is scheduled is no part of the invariant. -/
theorem BlockInv.with_sched {s : State} (inv : BlockInv s) (r : List Move) : BlockInv { s with sched := r } :=
  { inv with }

/-- What the host will do is no part of the invariant. -/
theorem BlockInv.with_hostq {s : State} (inv : BlockInv s) (q : List HostAct) : BlockInv { s with hostq := q } :=
  { inv with }

/-- A command that does not own the bus may be completed, whatever the answer (R14, R81). -/
theorem BlockInv.after_respond {s : State} (inv : BlockInv s) (hdir : s.dir = false) (k : RespKind) (v : Word) :
    BlockInv (respond k v s) where
  owns := by simp [hdir]
  running := by simp
  receiving := by simp
  framed := by simp
  counted := inv.counted
  emitting := by simp
  answered := by simp
  canonical := inv.canonical
  inFrame := inv.inFrame
  unsampled := inv.unsampled

/-- ASSERT takes the bus for a command that it names (R78). -/
theorem BlockInv.after_stepAssert {s : State} (inv : BlockInv s) (hresp : s.resp = none) {k : CurCmd} (hk : k ≠ .none) :
    BlockInv (stepAssert k s) where
  owns := by simp
  running := by simp [hk]
  receiving := by simp
  framed := by simp
  counted := inv.counted
  emitting := by simp
  answered := by simp [hresp]
  canonical := inv.canonical
  inFrame := inv.inFrame
  unsampled := inv.unsampled

/-- REQUEST keeps the bus for `TURN` (R79, R81). -/
theorem BlockInv.after_request {s : State} (inv : BlockInv s) (hphase : s.phase = .reqTx) (e : HistEvent) :
    BlockInv { s with hist := s.hist ++ [e], phase := .turn } where
  owns := by simp [inv.owns, hphase]
  running := by simp [inv.running, hphase]
  receiving := by simp
  framed := by simp
  counted := inv.counted
  emitting := by simp
  answered := by simp [inv.resp_eq_none, hphase]
  canonical := inv.canonical
  inFrame := inv.inFrame
  unsampled := inv.unsampled

theorem BlockInv.after_stepRelease {s : State} (inv : BlockInv s) (hphase : s.phase = .turn) :
    BlockInv (stepRelease s) where
  owns := by simp
  running := by simp [inv.running, hphase]
  receiving := by simp [Config.dataLen]
  framed := by simp
  counted := by simp
  emitting := by simp
  answered := by simp [inv.resp_eq_none, hphase]
  canonical := inv.canonical
  inFrame := inv.inFrame
  unsampled := inv.unsampled

/-- Reading a byte from the bus changes nothing that the invariant speaks of (R38). -/
theorem BlockInv.with_rx {s : State} (inv : BlockInv s) (q : List Byte) (h : List HistEvent) :
    BlockInv { s with rxq := q, hist := h } :=
  { inv with }

/-- RXDATA stores within the frame buffer, and its count reaches 12 exactly as the phase leaves `RX_DATA` (R28, R85). -/
theorem BlockInv.after_storeDataByte {s : State} (inv : BlockInv s) (hphase : s.phase = .rxData) (b : Byte) :
    BlockInv (storeDataByte b s) := by
  have hcount := inv.receiving hphase
  have hdir : s.dir = false := inv.dir_eq_false (by simp [hphase]) (by simp [hphase])
  have hresp : s.resp = none := inv.resp_eq_none (by simp [hphase])
  have hcur : s.cur ≠ .none := by simp [inv.running, hphase]
  have hnext : (storeDataByte b s).phase = .rxDelim ∧ s.rxCount + 1 = Config.dataLen ∨
      (storeDataByte b s).phase = .rxData ∧ s.rxCount + 1 < Config.dataLen := by
    by_cases hlast : s.rxCount + 1 = Config.dataLen
    · exact .inl ⟨by simp [hlast], hlast⟩
    · exact .inr ⟨by simp [hlast, hphase], by omega⟩
  exact {
    owns := by obtain ⟨h, _⟩ | ⟨h, _⟩ := hnext <;> simp only [h, storeDataByte_dir, hdir] <;> decide
    running := by obtain ⟨h, _⟩ | ⟨h, _⟩ := hnext <;> simp [-storeDataByte_phase, h, hcur]
    receiving := by obtain ⟨h, _⟩ | ⟨_, hlt⟩ := hnext <;> simp [-storeDataByte_phase, *]
    framed := by obtain ⟨_, hlast⟩ | ⟨h, _⟩ := hnext <;> simp [-storeDataByte_phase, *]
    counted := hcount
    emitting := by obtain ⟨h, _⟩ | ⟨h, _⟩ := hnext <;> simp [-storeDataByte_phase, h]
    answered := by simp [hresp]
    canonical := Memory.wf_write _ _ inv.canonical
    inFrame := Memory.inFrame_write _ inv.inFrame hcount
    unsampled := inv.unsampled }

theorem BlockInv.after_rxDelim {s : State} (inv : BlockInv s) (hphase : s.phase = .rxDelim) :
    BlockInv { s with phase := .process } where
  owns := by simp [inv.owns, hphase]
  running := by simp [inv.running, hphase]
  receiving := by simp
  framed := fun _ => inv.framed (.inl hphase)
  counted := inv.counted
  emitting := by simp
  answered := by simp [inv.resp_eq_none, hphase]
  canonical := inv.canonical
  inFrame := inv.inFrame
  unsampled := inv.unsampled

/-- The commit writes the cache, which only the text of a running `EMIT` depends on, and sets `valid` (R108). -/
theorem BlockInv.after_commit {s : State} (inv : BlockInv s) (p : Config.Params) (hphase : s.phase ≠ .emit) :
    BlockInv (commit p s) :=
  { inv with
    emitting := fun h => absurd h hphase
    unsampled := by simp }

/-- A command in `PROCESS` that is no `SAMPLE` is a `DUMP`, whose text is set from the cache (R108). -/
theorem BlockInv.after_startEmit {s : State} (inv : BlockInv s) (hphase : s.phase = .process) (hcur : s.cur ≠ .sample) :
    BlockInv (startEmit s) := by
  have hrunning : s.cur ≠ .none := by simp [inv.running, hphase]
  have hdump : s.cur = .dump := by
    cases h : s.cur with
    | none => exact absurd h hrunning
    | sample => exact absurd h hcur
    | dump => rfl
  exact {
    owns := by simp [inv.owns, hphase]
    running := by simp [hrunning]
    receiving := by simp
    framed := by simp
    counted := inv.counted
    emitting := by simp [hdump]
    answered := by simp [inv.resp_eq_none, hphase]
    canonical := inv.canonical
    inFrame := inv.inFrame
    unsampled := inv.unsampled }

/-- Writing a byte of the text advances the index within the text (R29, R120). -/
theorem BlockInv.after_emitByte {s : State} (inv : BlockInv s) (hphase : s.phase = .emit) (hlt : s.tidx < s.text.length)
    (h : List HistEvent) : BlockInv { s with hist := h, tidx := s.tidx + 1 } :=
  { inv with
    emitting := by
      obtain ⟨hcur, htext, _⟩ := inv.emitting hphase
      exact fun _ => ⟨hcur, htext, hlt⟩ }

/-- Taking the response empties a register that the invariant lets be empty (R36). -/
theorem BlockInv.after_take {s : State} (inv : BlockInv s) (q : List HostAct) (rs : List Response) :
    BlockInv { s with hostq := q, resp := none, taken := rs } :=
  { inv with answered := fun h => Bool.noConfusion h }

/-- The reset values of the block's state satisfy the invariant, whatever the environment's are (R44). -/
theorem BlockInv.after_resetEvent (s : State) : BlockInv (resetEvent s) := by
  constructor <;> simp

/-- No move but the host's takes an idle block out of `IDLE` (R35). -/
theorem MoveEffect.stays_idle {p : Config.Params} {m : Move} {s t : State} (h : MoveEffect p m s t) (hm : m ≠ .host)
    (hs : s.phase = .idle) : t.phase = .idle := by
  cases h with
  | stay | arrive | txReady | sinkReady => exact hs
  | timeout | reset => rfl
  | assert | get | illegal | take => exact absurd rfl hm
  | request _ hphase _ | release _ hphase | rxData _ _ _ hphase _ _ | rxDelim _ _ _ hphase _ | processSample _ hphase _
  | processDump _ hphase _ | emitByte _ _ hphase _ | emitEnd _ hphase _ => simp [hs] at hphase

/-- A move that leaves `IDLE` is the acceptance of a command, which ASSERT names in `cur` (R78). -/
theorem moveWith_leaves_idle {p : Config.Params} {m : Move} {s t : State} (h : moveWith p m s = .next t)
    (hs : s.phase = .idle) (ht : t.phase ≠ .idle) : t.cur ≠ .none := by
  by_cases hm : m = .host
  · subst hm
    replace h : hostMove s = .next t := h
    obtain e | ⟨c, q, _, _, e⟩ | ⟨q, r, _, _, e⟩ := hostMove_cases s
    · obtain rfl : s = t := by simpa [e] using h
      exact absurd hs ht
    · obtain ⟨_, e'⟩ | ⟨_, e' | e' | ⟨ch, e'⟩ | e'⟩ := acceptCommand_cases c { s with hostq := q }
      all_goals
        rw [e, e'] at h
        injection h with h
        subst h
      · exact absurd hs ht
      · simp
      · simp
      · exact absurd (respondChannel_phase _ ch) ht
      · exact absurd (raiseErr_phase _ _) ht
    · rw [e] at h
      injection h with h
      subst h
      exact absurd hs ht
  · exact absurd ((moveWith_effect h).stays_idle hm hs) ht

/-- Every effect of a move keeps the invariant; that a command accepted is named, which the list of effects leaves open, is
the premise `hcmd`. -/
theorem MoveEffect.keeps_inv {p : Config.Params} {m : Move} {s t : State} (h : MoveEffect p m s t) (inv : BlockInv s)
    (hcmd : s.phase = .idle → t.phase ≠ .idle → t.cur ≠ .none) : BlockInv t := by
  have hdir_of (hphase : s.phase ≠ .reqTx ∧ s.phase ≠ .turn) : s.dir = false := inv.dir_eq_false hphase.1 hphase.2
  cases h with
  | stay => exact inv
  | request _ hphase _ => exact inv.after_request hphase _
  | release _ hphase => exact inv.after_stepRelease hphase
  | rxData _ b q hphase _ _ => exact (inv.with_rx q _).after_storeDataByte hphase b
  | rxDelim _ b q hphase _ => exact (inv.with_rx q _).after_rxDelim hphase
  | processSample _ hphase _ =>
    exact (inv.after_commit p (by simp [hphase])).after_respond (hdir_of (by simp [hphase])) _ _
  | processDump _ hphase hcur => exact (inv.after_commit p (by simp [hphase])).after_startEmit hphase hcur
  | emitByte _ b hphase hb => exact inv.after_emitByte hphase (List.getElem?_eq_some_iff.mp hb).1 _
  | emitEnd _ hphase _ => exact inv.after_respond (hdir_of (by simp [hphase])) _ _
  | assert _ q k hphase hresp => exact (inv.with_hostq q).after_stepAssert hresp (hcmd hphase (by simp))
  | get _ q ch hphase _ => exact (inv.with_hostq q).after_respond (hdir_of (by simp [hphase])) _ _
  | illegal _ q hphase _ => exact (inv.with_hostq q).after_respond (hdir_of (by simp [hphase])) _ _
  | take _ q _ _ => exact inv.after_take q _
  | arrive _ b => exact { inv with }
  | timeout _ henabled =>
    obtain ⟨_, hphase, _⟩ := (timeoutEnabled_iff p s).mp henabled
    exact inv.after_respond (hdir_of (by obtain h | h := hphase <;> simp [h])) _ _
  | reset => exact .after_resetEvent s
  | txReady _ v => exact { inv with }
  | sinkReady _ v => exact { inv with }

/-- A step is its next move, on the state with that move taken from the schedule. -/
theorem stepWith_eq_moveWith (p : Config.Params) (s : State) :
    stepWith p s = moveWith p (nextMove s) { s with sched := s.sched.tail } := by
  obtain ⟨hsched, hstep⟩ | ⟨m, r, hsched, hstep⟩ := stepWith_eq p s
  · have hstate : { s with sched := s.sched.tail } = s := by rw [hsched, List.tail_nil, ← hsched]
    rw [hstep, hstate, nextMove, hsched]
  · rw [hstep, nextMove, hsched, List.tail_cons]

theorem stepWith_keeps_inv {p : Config.Params} {s t : State} (inv : BlockInv s) (h : stepWith p s = .next t) :
    BlockInv t := by
  rw [stepWith_eq_moveWith] at h
  exact (moveWith_effect h).keeps_inv (inv.with_sched _) (moveWith_leaves_idle h)

/-- Settles O40: `MoveEffect.keeps_inv` for each effect of the step's move, where an accepted command is one that ASSERT
names (`moveWith_leaves_idle`). -/
theorem stepKeepsBlockInvariant : Obligations.StepKeepsBlockInvariant :=
  ⟨fun _ _ _ inv h => stepWith_keeps_inv inv h, fun _ _ inv h => stepWith_keeps_inv inv h⟩

/-- Settles O39: every register stands at its reset value, and the empty history at the idle stage. -/
theorem invariantsHoldAtReset : Obligations.InvariantsHoldAtReset :=
  ⟨by constructor <;> simp [State.reset], rfl⟩

/-- In a receiving phase of a state with the invariant the frame buffer has room, so RXDATA does not fault (R28, R48). -/
theorem blockStep_next (p : Config.Params) {s : State} (inv : BlockInv s) : ∃ t, blockStep p s = .next t := by
  cases hphase : s.phase with
  | rxData =>
    simp only [blockStep, hphase]
    obtain ⟨_, e⟩ | ⟨b, q, _, _, e⟩ | ⟨_, hfull, _⟩ := stepRxData_cases s
    · exact ⟨_, e⟩
    · exact ⟨_, e⟩
    · exact absurd (inv.receiving hphase) hfull
  | idle | reqTx | turn | rxDelim | process | emit => simp [blockStep, hphase]

/-- The host's acts answer a next state, whatever the state: no command is refused. -/
theorem hostMove_next (s : State) : ∃ t, hostMove s = .next t := by
  obtain e | ⟨c, q, _, _, e⟩ | ⟨_, _, _, _, e⟩ := hostMove_cases s
  · exact ⟨_, e⟩
  · rw [e]
    obtain ⟨_, e'⟩ | ⟨_, e' | e' | ⟨_, e'⟩ | e'⟩ := acceptCommand_cases c { s with hostq := q } <;> exact ⟨_, e'⟩
  · exact ⟨_, e⟩

/-- Settles O42: the one fault is RXDATA's at a full frame buffer, which the invariant excludes (`blockStep_next`). -/
theorem noStepFaults : Obligations.NoStepFaults := by
  intro p s inv
  rw [stepWith_eq_moveWith]
  cases nextMove s with
  | block => exact blockStep_next p (inv.with_sched _)
  | host => exact hostMove_next _
  | rxArrive | timeout | reset | txReady | sinkReady => exact ⟨_, rfl⟩

end Sys2Proof.Machine
end

section
/-! The observation history: what each effect of a move records, and that it takes the protocol's stage from where the block
stood to where it stands (R41, R59, R72, R121, R141). -/

namespace Sys2Proof.Machine

/-- Every move records its events, if any, at the end of the history (R41). -/
theorem MoveEffect.hist_append {p : Config.Params} {m : Move} {s t : State} (h : MoveEffect p m s t) :
    ∃ new, t.hist = s.hist ++ new := by
  cases h with
  | request | release | rxData | rxDelim | processSample | emitByte | emitEnd | assert | get | illegal | timeout | reset =>
    exact ⟨_, rfl⟩
  | stay | processDump | take | arrive | txReady | sinkReady => exact ⟨[], (List.append_nil _).symm⟩

/-- Settles O49: a step is a move, and a move only appends (`MoveEffect.hist_append`). -/
theorem historyAppendOnly : Obligations.HistoryAppendOnly :=
  fun _ _ _ h => (stepWith_effect h).hist_append

/-! ### The stages of the protocol -/

@[simp] theorem stageOf_nil (g : Stage) : stageOf g [] = some g := rfl

theorem stageOf_cons (g : Stage) (e : HistEvent) (es : List HistEvent) :
    stageOf g (e :: es) = (stageAfter g e).bind fun g' => stageOf g' es := by
  simp only [stageOf]
  cases stageAfter g e <;> rfl

@[simp] theorem stageOf_singleton (g : Stage) (e : HistEvent) : stageOf g [e] = stageAfter g e := by
  simp [stageOf_cons]

/-- The stage after a history is reached event by event, so a history may be cut anywhere. -/
theorem stageOf_append (h h' : List HistEvent) (g : Stage) :
    stageOf g (h ++ h') = (stageOf g h).bind fun g' => stageOf g' h' := by
  induction h generalizing g with
  | nil => rfl
  | cons e es ih => simp only [List.cons_append, stageOf_cons, ih, Option.bind_assoc]

/-- The status that a timeout gives is the one its count of bytes calls for (R91, R125 to R127). -/
theorem timeoutStatus_eq_frameStatus {s : State} {n : Nat}
    (h : s.phase = .rxData ∧ s.rxCount = n ∧ n < Config.dataLen ∨ s.phase ≠ .rxData ∧ n = Config.dataLen) :
    timeoutStatus s = frameStatus n := by
  obtain ⟨hphase, rfl, hlt⟩ | ⟨hphase, rfl⟩ := h
  · have hne : s.rxCount ≠ Config.frameLen := by
      simp only [Config.dataLen, Config.frameLen, Config.delimLen] at *
      omega
    simp [timeoutStatus, frameStatus, hphase, hne]
  · simp [timeoutStatus, frameStatus, hphase, Config.dataLen, Config.frameLen, Config.delimLen]

theorem stageAfter_receiving_rx {n : Nat} (h : n < Config.frameLen) (b : Byte) :
    stageAfter (.receiving n) (.rx b) = some (.receiving (n + 1)) := if_pos h

theorem stageAfter_receiving_resp (n : Nat) :
    stageAfter (.receiving n) (.resp (statusResponse (frameStatus n))) = some .idle := if_pos rfl

theorem stageAfter_idle_resp {r : Response} (h : immediateResponse r = true) :
    stageAfter .idle (.resp r) = some .idle := if_pos h

/-- In `EMIT` a text byte may follow: the first comes after the 13th byte of the frame (R121). -/
theorem stageAfter_emit_text (n tidx : Nat) (b : Byte) : stageAfter (stageAt .emit n tidx) (.text b) = some .texting := by
  obtain rfl | hpos := eq_or_ne tidx 0
  · rfl
  · rw [stageAt, if_neg hpos, stageAfter]

/-- Once a byte of the text is written, the stage is the text's. -/
theorem stageAt_emit_succ (n k : Nat) : stageAt .emit n (k + 1) = .texting := by
  rw [stageAt, if_neg k.succ_ne_zero]

/-- In `EMIT` the command may be answered `OK` (R120). -/
theorem stageAfter_emit_resp (n tidx : Nat) :
    stageAfter (stageAt .emit n tidx) (.resp (statusResponse .ok)) = some .idle := by
  obtain rfl | hpos := eq_or_ne tidx 0
  · rfl
  · rw [stageAt, if_neg hpos]
    rfl

/-- A reset may come at any stage, after `Dir(0)` where the bus was owned (R141). -/
theorem stageOf_reset {s : State} (inv : BlockInv s) :
    stageOf (stageOfPhase s) ((if s.dir then [.dir false] else []) ++ [.reset]) = some .idle := by
  cases hphase : s.phase with
  | reqTx | turn =>
    have hdir : s.dir = true := by simp [inv.owns, hphase]
    simp only [stageOfPhase, hphase, hdir]
    rfl
  | idle | rxData | rxDelim | process =>
    have hdir : s.dir = false := inv.dir_eq_false (by simp [hphase]) (by simp [hphase])
    simp only [stageOfPhase, hphase, hdir]
    rfl
  | emit =>
    have hdir : s.dir = false := inv.dir_eq_false (by simp [hphase]) (by simp [hphase])
    simp only [stageOfPhase, hphase, hdir, stageAt]
    split <;> rfl

/-- A timeout answers at the stage of its receiving phase, with the status of the bytes read (R91). -/
theorem stageAfter_timeout {p : Config.Params} {s : State} (inv : BlockInv s) (h : timeoutEnabled p s = true) :
    stageAfter (stageOfPhase s) (.resp (statusResponse (timeoutStatus s))) = some .idle := by
  obtain ⟨_, hphase | hphase, _⟩ := (timeoutEnabled_iff p s).mp h
  · rw [timeoutStatus_eq_frameStatus (.inl ⟨hphase, rfl, inv.receiving hphase⟩), stageOfPhase, hphase]
    exact stageAfter_receiving_resp s.rxCount
  · rw [timeoutStatus_eq_frameStatus (n := Config.dataLen) (.inr ⟨by simp [hphase], rfl⟩), stageOfPhase, hphase]
    exact stageAfter_receiving_resp Config.dataLen

/-- After RXDATA the count of bytes read is the stage, in `RX_DATA` as in `RX_DELIM` (R85). -/
theorem stageOfPhase_storeDataByte {s : State} (hphase : s.phase = .rxData) (b : Byte) :
    stageOfPhase (storeDataByte b s) = .receiving (s.rxCount + 1) := by
  simp only [stageOfPhase, storeDataByte_phase, storeDataByte_rxCount, storeDataByte_tidx]
  split
  · rename_i hlast
    rw [hlast, stageAt]
  · rw [hphase, stageAt]

/-- What a move records takes the stage of the phase before to the stage of the phase after. -/
theorem MoveEffect.stage {p : Config.Params} {m : Move} {s t : State} (h : MoveEffect p m s t) (inv : BlockInv s) :
    ∃ new, t.hist = s.hist ++ new ∧ stageOf (stageOfPhase s) new = some (stageOfPhase t) := by
  cases h with
  | stay | take | arrive | txReady | sinkReady => exact ⟨[], (List.append_nil _).symm, rfl⟩
  | request _ hphase _ | release _ hphase | processSample _ hphase _ =>
    refine ⟨[_], rfl, ?_⟩
    rw [stageOfPhase, hphase]
    rfl
  | processDump _ hphase _ =>
    refine ⟨[], (List.append_nil _).symm, ?_⟩
    rw [stageOfPhase, hphase]
    rfl
  | rxData _ b q hphase _ hlt =>
    refine ⟨[.rx b], rfl, ?_⟩
    have hroom : s.rxCount < Config.frameLen := Nat.lt_succ_of_lt hlt
    rw [stageOfPhase_storeDataByte (by exact hphase), stageOfPhase, hphase, stageOf_singleton]
    exact stageAfter_receiving_rx hroom b
  | rxDelim _ b q hphase _ =>
    refine ⟨[.rx b], rfl, ?_⟩
    rw [stageOfPhase, hphase, stageOf_singleton]
    exact stageAfter_receiving_rx (by decide) b
  | emitByte _ b hphase _ =>
    refine ⟨[.text b], rfl, ?_⟩
    rw [stageOf_singleton, stageOfPhase, hphase, stageAfter_emit_text, stageOfPhase]
    exact congrArg some (stageAt_emit_succ s.rxCount s.tidx).symm
  | emitEnd _ hphase _ =>
    refine ⟨[_], rfl, ?_⟩
    rw [stageOfPhase, hphase, stageOf_singleton]
    exact stageAfter_emit_resp _ _
  | assert _ q k hphase _ =>
    refine ⟨[_], rfl, ?_⟩
    rw [stageOfPhase, hphase]
    rfl
  | get _ q ch hphase _ | illegal _ q hphase _ =>
    refine ⟨[_], rfl, ?_⟩
    rw [stageOfPhase, hphase, stageOf_singleton]
    exact stageAfter_idle_resp (by rfl)
  | timeout _ henabled => exact ⟨[_], rfl, (stageOf_singleton _ _).trans (stageAfter_timeout inv henabled)⟩
  | reset => exact ⟨_, rfl, stageOf_reset inv⟩

/-- Settles O41: the history after is the history before with the events of one move, which take the stage along
(`MoveEffect.stage`). -/
theorem stepKeepsHistoryOnProtocol : Obligations.StepKeepsHistoryOnProtocol := by
  intro p s t inv hprotocol h
  obtain ⟨new, hhist, hstage⟩ := (stepWith_effect h).stage (inv.with_sched _)
  have hbefore : stageOf .idle s.hist = some (stageOfPhase s) := hprotocol
  rw [HistFollowsProtocol, hhist, stageOf_append, hbefore]
  exact hstage

/-! ### The statuses recorded -/

/-- A timeout's status is not `MALFORMED_FRAME` (R128). -/
theorem timeoutStatus_ne_malformedFrame (s : State) : timeoutStatus s ≠ .malformedFrame := by
  unfold timeoutStatus
  split <;> exact Status.noConfusion

theorem frameStatus_ne_malformedFrame (n : Nat) : frameStatus n ≠ .malformedFrame := by
  unfold frameStatus
  split
  · exact Status.noConfusion
  · split <;> exact Status.noConfusion

/-- A response that the block produces: a value, or any status but `MALFORMED_FRAME` (R128). -/
def Response.Produced (r : Response) : Prop := r.kind = .value ∨ ∃ st, st ≠ .malformedFrame ∧ r = statusResponse st

theorem Response.Produced.status_value {v : Word} (h : Response.Produced ⟨.status, v⟩) :
    v = 0x0000 ∨ v = 0x0001 ∨ v = 0x0002 ∨ v = 0x0004 := by
  obtain hvalue | ⟨st, hst, hr⟩ := h
  · cases hvalue
  · obtain rfl : v = st.code.setWidth 16 := congrArg Response.value hr
    cases st with
    | malformedFrame => exact absurd rfl hst
    | ok | busTimeout | frameUnderrun | illegalCommand => decide

/-- A response is completed only as a produced one, which `resp` then holds and the history ends with; a move that completes
none records none and keeps or empties `resp` (R14, R36). -/
theorem MoveEffect.responses {p : Config.Params} {m : Move} {s t : State} (h : MoveEffect p m s t) :
    (∃ r : Response, r.Produced ∧ t.resp = some r ∧ t.hist = s.hist ++ [.resp r]) ∨
      ((t.resp = s.resp ∨ t.resp = none) ∧ ∀ r, .resp r ∈ t.hist → .resp r ∈ s.hist) := by
  cases h with
  | processSample | emitEnd => exact .inl ⟨_, .inr ⟨.ok, Status.noConfusion, rfl⟩, rfl, rfl⟩
  | get => exact .inl ⟨_, .inl rfl, rfl, rfl⟩
  | illegal => exact .inl ⟨_, .inr ⟨.illegalCommand, Status.noConfusion, rfl⟩, rfl, rfl⟩
  | timeout => exact .inl ⟨_, .inr ⟨_, timeoutStatus_ne_malformedFrame s, rfl⟩, rfl, rfl⟩
  | reset =>
    refine .inr ⟨.inr rfl, fun r hr => ?_⟩
    cases hdir : s.dir <;> simpa [hdir] using hr
  | take => exact .inr ⟨.inr rfl, fun _ hr => hr⟩
  | stay | request | release | rxData | rxDelim | processDump | emitByte | assert | arrive | txReady | sinkReady =>
    exact .inr ⟨.inl rfl, fun r hr => by simpa using hr⟩

/-- On the protocol only a produced response may come (R72, R125 to R129). -/
theorem stageAfter_resp {g g' : Stage} {r : Response} (h : stageAfter g (.resp r) = some g') : r.Produced := by
  cases g with
  | idle =>
    have himmediate : immediateResponse r = true := by
      by_contra hne
      simp [stageAfter, hne] at h
    simp only [immediateResponse, Bool.or_eq_true, decide_eq_true_eq] at himmediate
    exact himmediate.imp_right fun hr => ⟨.illegalCommand, Status.noConfusion, hr⟩
  | receiving n =>
    have hr : r = statusResponse (frameStatus n) := by
      by_contra hne
      simp [stageAfter, hne] at h
    exact .inr ⟨_, frameStatus_ne_malformedFrame n, hr⟩
  | texting =>
    have hr : r = statusResponse .ok := by
      by_contra hne
      simp [stageAfter, hne] at h
    exact .inr ⟨.ok, Status.noConfusion, hr⟩
  | owned | requested | aborted => cases h

/-- Each event of a history on the protocol came at some stage at which it may. -/
theorem exists_stageAfter_of_mem {h : List HistEvent} {e : HistEvent} (he : e ∈ h) {g g' : Stage}
    (hstage : stageOf g h = some g') : ∃ g₁ g₂, stageAfter g₁ e = some g₂ := by
  induction h generalizing g with
  | nil => cases he
  | cons e' es ih =>
    obtain ⟨g₁, hfirst, hrest⟩ := Option.bind_eq_some_iff.mp ((stageOf_cons g e' es).symm.trans hstage)
    obtain rfl | hes := List.mem_cons.mp he
    · exact ⟨g, g₁, hfirst⟩
    · exact ih hes hrest

/-- Settles O43: a move completes at most one response, a produced one (`MoveEffect.responses`), and the protocol lets no
other come (`stageAfter_resp`). -/
theorem onlyDefinedStatusesProduced : Obligations.OnlyDefinedStatusesProduced := by
  refine ⟨fun p s t v h hv => ?recorded, fun p s t v h hv => ?answered, fun s v hprotocol hv => ?onProtocol⟩
  case recorded =>
    obtain ⟨r, hr, _, hhist⟩ | ⟨_, hold⟩ := (stepWith_effect h).responses
    · rw [hhist, List.mem_append, List.mem_singleton] at hv
      obtain hbefore | hnew := hv
      · exact .inl hbefore
      · obtain rfl : _ = r := HistEvent.resp.inj hnew
        exact .inr hr.status_value
    · exact .inl (hold _ hv)
  case answered =>
    obtain ⟨r, hr, hresp, _⟩ | ⟨hkept | hnone, _⟩ := (stepWith_effect h).responses
    · obtain rfl : r = _ := Option.some.inj (hresp.symm.trans hv)
      exact .inr hr.status_value
    · exact .inl (hkept ▸ hv)
    · rw [hnone] at hv
      cases hv
  case onProtocol =>
    obtain ⟨_, _, hstage⟩ := exists_stageAfter_of_mem hv hprotocol
    exact (stageAfter_resp hstage).status_value

end Sys2Proof.Machine
end

section
/-! What a step may change of one register, read off the effects of a move: the direction line, the cache, the received
stream, the frame buffer and the model-only flags (R34, R38, R48, R56, R81). -/

namespace Sys2Proof.Machine

/-- Only a reset has the effects of a reset. -/
theorem MoveEffect.of_reset {p : Config.Params} {s t : State} (h : MoveEffect p .reset s t) : t = resetEvent s := by
  cases h with
  | stay _ _ hm => simp at hm
  | reset => rfl

/-- The direction line changes only by ASSERT, RELEASE and reset, each of which records it (R77, R81, R141). -/
theorem MoveEffect.dir_changes {p : Config.Params} {m : Move} {s t : State} (h : MoveEffect p m s t)
    (hne : t.dir ≠ s.dir) :
    (t.dir = true ∧ s.phase = .idle ∧ t.phase = .reqTx ∧ t.hist = s.hist ++ [.dir true]) ∨
      (t.dir = false ∧ s.phase = .turn ∧ t.phase = .rxData ∧ t.hist = s.hist ++ [.dir false]) ∨
      (t.dir = false ∧ m = .reset ∧ t.hist = s.hist ++ [.dir false, .reset]) := by
  cases h with
  | assert _ _ _ hphase _ => exact .inl ⟨rfl, hphase, rfl, rfl⟩
  | release _ hphase => exact .inr (.inl ⟨rfl, hphase, rfl, rfl⟩)
  | reset =>
    have hdir : s.dir = true := by simpa using hne.symm
    exact .inr (.inr ⟨rfl, rfl, by simp [hdir]⟩)
  | stay | request | rxData | rxDelim | processSample | processDump | emitByte | emitEnd | get | illegal | take | arrive
  | timeout | txReady | sinkReady => exact absurd rfl hne

/-- Settles O45: the one move that writes to the bus is REQUEST, in which the bus is owned, and `MoveEffect.dir_changes`. -/
theorem ownershipChangesHands : Obligations.OwnershipChangesHands := by
  intro p s t inv h
  refine ⟨fun hsent => ?writes, (stepWith_effect h).dir_changes⟩
  case writes =>
    obtain hkept | ⟨_, hphase, _⟩ := (stepWith_effect h).busOf_hist
    · exact absurd hkept hsent
    · exact inv.owns.mpr (.inl hphase)

/-- The cache changes only by the commit and by reset (R23, R56). -/
theorem MoveEffect.cache_changes {p : Config.Params} {m : Move} {s t : State} (h : MoveEffect p m s t) :
    t.cache = s.cache ∨ (m = .block ∧ s.phase = .process ∧ t.valid = true ∧ t.cache = scaledCache p s.fbuf) ∨
      (m = .reset ∧ t.cache = Cache.zero) := by
  cases h with
  | processSample _ hphase _ | processDump _ hphase _ => exact .inr (.inl ⟨rfl, hphase, rfl, rfl⟩)
  | reset => exact .inr (.inr ⟨rfl, rfl⟩)
  | stay | request | release | rxData | rxDelim | emitByte | emitEnd | assert | get | illegal | take | arrive
  | timeout | txReady | sinkReady => exact .inl rfl

/-- Each register of the committed cache is the scaled local value of its channel (R108). -/
@[simp] theorem get_scaledCache (p : Config.Params) (m : Memory) (ch : Channel) :
    (scaledCache p m).get ch = scale p ch (localValue m ch) :=
  get_ofChannels _ ch

/-- Settles O46: `MoveEffect.cache_changes`, and what the commit writes (`get_scaledCache`). -/
theorem cacheWrittenOnlyByCommit : Obligations.CacheWrittenOnlyByCommit := by
  intro p s t h
  obtain hkept | ⟨hmove, hphase, hvalid, hcache⟩ | hreset := (stepWith_effect h).cache_changes
  · exact .inl hkept
  · exact .inr (.inl ⟨hmove, hphase, hvalid, fun ch => hcache ▸ get_scaledCache p s.fbuf ch⟩)
  · exact .inr (.inr hreset)

/-- An arriving byte is the responder's unless the bus is owned (R38, R82). -/
theorem arrivedByte_of_not_owned {s : State} (b : Byte) (hdir : s.dir = false) : arrivedByte b s = b := by
  simp [arrivedByte, hdir]

/-- Settles O47: a byte is taken from the head of the stream by RXDATA and RXDELIM, which record it, and put at its tail by
an arrival; every other effect leaves the stream. -/
theorem receiveStreamIsFifo : Obligations.ReceiveStreamIsFifo := by
  intro p s t h
  have heffect := stepWith_effect h
  generalize nextMove s = m at heffect ⊢
  cases heffect with
  | rxData _ b q _ hq _ | rxDelim _ b q _ hq => exact .inr (.inl ⟨b, hq, rfl⟩)
  | arrive _ b => exact .inr (.inr ⟨b, _, rfl, rfl, rfl, fun hdir => arrivedByte_of_not_owned b hdir⟩)
  | stay | request | release | processSample | processDump | emitByte | emitEnd | assert | get | illegal | take
  | timeout | reset | txReady | sinkReady => exact .inl rfl

/-- Settles O48: but for reset, only RXDATA writes the frame buffer, and a write in canonical form changes its own offset
alone (`Memory.read_write`). -/
theorem frameBufferFrame : Obligations.FrameBufferFrame := by
  intro p s t inv h hmove k hne
  have heffect := stepWith_effect h
  generalize nextMove s = m at heffect hmove ⊢
  cases heffect with
  | rxData _ b q hphase hq _ =>
    have hread := Memory.read_write s.rxCount k b inv.canonical
    have hk : k = s.rxCount := by
      by_contra hother
      exact hne (hread.trans (if_neg hother))
    exact ⟨rfl, hphase, hk, (hread.trans (if_pos hk)).symm ▸ hq⟩
  | reset => exact absurd rfl hmove
  | stay | request | release | rxDelim | processSample | processDump | emitByte | emitEnd | assert | get | illegal | take
  | arrive | timeout | txReady | sinkReady => exact absurd rfl hne

/-- Settles O51: an arrival adds `dir` to the flag, and no other effect touches it (R34, R82). -/
theorem contentionIsSticky : Obligations.ContentionIsSticky := by
  intro p s t h
  have heffect := stepWith_effect h
  generalize nextMove s = m at heffect ⊢
  simp only [NoContention]
  cases heffect with
  | arrive _ b =>
    refine ⟨fun hafter => (Bool.or_eq_false_iff.mp hafter).1, fun hbefore hafter => ⟨?_, b, rfl⟩⟩
    simpa [hbefore] using hafter
  | stay | request | release | rxData | rxDelim | processSample | processDump | emitByte | emitEnd | assert | get | illegal
  | take | timeout | reset | txReady | sinkReady => exact ⟨id, fun hbefore hafter => absurd hbefore hafter⟩

/-- `valid` changes only by the commit, which sets it, and by reset (R34). -/
theorem MoveEffect.valid_changes {p : Config.Params} {m : Move} {s t : State} (h : MoveEffect p m s t) :
    t.valid = s.valid ∨ (m = .block ∧ s.phase = .process ∧ t.valid = true) ∨ m = .reset := by
  cases h with
  | processSample _ hphase _ | processDump _ hphase _ => exact .inr (.inl ⟨rfl, hphase, rfl⟩)
  | reset => exact .inr (.inr rfl)
  | stay | request | release | rxData | rxDelim | emitByte | emitEnd | assert | get | illegal | take | arrive
  | timeout | txReady | sinkReady => exact .inl rfl

/-- Settles O55: `MoveEffect.valid_changes`, and reset clears the flag (`MoveEffect.of_reset`). -/
theorem validClearedOnlyByReset : Obligations.ValidClearedOnlyByReset := by
  intro p s t h
  have heffect := stepWith_effect h
  have hreset : nextMove s = .reset → t.valid = false := by
    intro hmove
    rw [hmove] at heffect
    rw [heffect.of_reset, resetEvent_valid]
  obtain hkept | ⟨hblock, hphase, hset⟩ | hmove := heffect.valid_changes
  · replace hkept : t.valid = s.valid := hkept
    exact ⟨fun hbefore hafter => by simp [hkept, hbefore] at hafter, hreset,
      fun hbefore hafter => by simp [hkept, hbefore] at hafter⟩
  · exact ⟨fun _ hafter => by simp [hset] at hafter, hreset, fun _ _ => ⟨hblock, hphase⟩⟩
  · exact ⟨fun _ _ => hmove, hreset, fun _ hafter => by simp [hreset hmove] at hafter⟩

end Sys2Proof.Machine
end

section
/-! The model-only flags are read by no step (R34): with both flags forgotten, a move answers the same from a state whatever
its flags are. -/

namespace Sys2Proof.Machine

/-- A state with both flags forgotten. -/
def forgetFlags (s : State) : State := withFlags false false s

/-- States that differ in the flags at most are each the other with flags replaced. -/
theorem eq_withFlags_of_forgetFlags_eq {s t : State} (h : forgetFlags s = forgetFlags t) :
    s = withFlags s.valid s.contention t := by
  have hrestored := congrArg (withFlags s.valid s.contention) h
  exact hrestored

/-- An outcome with the flags of its state forgotten. -/
def forgetFlagsIn : Host.Outcome State Fault Refusal → Host.Outcome State Fault Refusal
  | .next s => .next (forgetFlags s)
  | .fault r => .fault r
  | .refused r => .refused r

theorem forgetFlagsIn_eq_next {o : Host.Outcome State Fault Refusal} {t : State}
    (h : forgetFlagsIn o = forgetFlagsIn (.next t)) : ∃ u, o = .next u ∧ forgetFlags u = forgetFlags t := by
  cases o with
  | next u => exact ⟨u, rfl, by simpa [forgetFlagsIn] using h⟩
  | fault | refused => simp [forgetFlagsIn] at h

theorem forgetFlagsIn_eq_fault {o : Host.Outcome State Fault Refusal} {r : Fault}
    (h : forgetFlagsIn o = forgetFlagsIn (.fault r)) : o = .fault r := by
  cases o with
  | fault => simpa [forgetFlagsIn] using h
  | next | refused => simp [forgetFlagsIn] at h

section
variable (p : Config.Params) (v c : Bool) (s : State)

/-- The port's condition and the command decoded depend on no flag (R35, R106). -/
theorem acceptCommand_withFlags (code : Byte) :
    forgetFlagsIn (acceptCommand code (withFlags v c s)) = forgetFlagsIn (acceptCommand code s) := by
  have haccept {f : State → State} (hf : forgetFlags (f (withFlags v c s)) = forgetFlags (f s)) :
      forgetFlagsIn (accept f (withFlags v c s)) = forgetFlagsIn (accept f s) := by
    simp only [accept, show (withFlags v c s).cmdEnabled = s.cmdEnabled from rfl]
    split
    · exact congrArg Host.Outcome.next hf
    · rfl
  unfold acceptCommand
  split
  · rename_i i _
    cases i <;> exact haccept rfl
  · exact haccept rfl

theorem hostMove_withFlags : forgetFlagsIn (hostMove (withFlags v c s)) = forgetFlagsIn (hostMove s) := by
  unfold hostMove
  simp only [show (withFlags v c s).hostq = s.hostq from rfl, show (withFlags v c s).cmdEnabled = s.cmdEnabled from rfl]
  split
  · rfl
  · rename_i code q _
    split
    · exact acceptCommand_withFlags v c { s with hostq := q } code
    · rfl
  · simp only [takeResp, show (withFlags v c s).resp = s.resp from rfl]
    split <;> rfl

theorem busRead_withFlags : busRead (withFlags v c s) = (busRead s).map fun r => (r.1, withFlags v c r.2) := by
  rcases hq : s.rxq with _ | ⟨b, q⟩
  · rw [busRead_nil hq, busRead_nil (by exact hq), Option.map_none]
  · rw [busRead_cons hq, busRead_cons (by exact hq), Option.map_some]
    rfl

theorem blockStep_withFlags : forgetFlagsIn (blockStep p (withFlags v c s)) = forgetFlagsIn (blockStep p s) := by
  unfold blockStep
  simp only [show (withFlags v c s).phase = s.phase from rfl]
  split
  · rfl
  · simp only [stepRequest, show (withFlags v c s).txReady = s.txReady from rfl]
    split <;> rfl
  · rfl
  · rw [stepRxData, stepRxData, busRead_withFlags, show (withFlags v c s).rxCount = s.rxCount from rfl]
    obtain _ | ⟨b, t⟩ := busRead s
    · rfl
    · simp only [Option.map_some]
      split <;> rfl
  · rw [stepRxDelim, stepRxDelim, busRead_withFlags]
    obtain _ | ⟨b, t⟩ := busRead s <;> rfl
  · simp only [stepProcess, show (withFlags v c s).cur = s.cur from rfl]
    split <;> rfl
  · simp only [stepEmit, show (withFlags v c s).text = s.text from rfl, show (withFlags v c s).tidx = s.tidx from rfl,
      show (withFlags v c s).sinkReady = s.sinkReady from rfl]
    split
    · split <;> rfl
    · rfl

theorem moveWith_withFlags (m : Move) :
    forgetFlagsIn (moveWith p m (withFlags v c s)) = forgetFlagsIn (moveWith p m s) := by
  cases m with
  | block => exact blockStep_withFlags p v c s
  | host => exact hostMove_withFlags v c s
  | timeout =>
    simp only [moveWith, stepTimeout, show timeoutEnabled p (withFlags v c s) = timeoutEnabled p s from rfl]
    split <;> rfl
  | rxArrive | reset | txReady | sinkReady => rfl

theorem stepWith_withFlags : forgetFlagsIn (stepWith p (withFlags v c s)) = forgetFlagsIn (stepWith p s) := by
  rw [stepWith_eq_moveWith, stepWith_eq_moveWith]
  exact moveWith_withFlags p v c { s with sched := s.sched.tail } (nextMove s)

end

/-- Settles O50: the outcomes with and without the flags replaced are equal but for the flags (`stepWith_withFlags`). -/
theorem modelFlagsNeverRead : Obligations.ModelFlagsNeverRead := by
  intro p s v c
  refine ⟨fun t h => ?next, fun r h => ?fault⟩
  case next =>
    obtain ⟨u, hstep, hforget⟩ := forgetFlagsIn_eq_next (h ▸ stepWith_withFlags p v c s)
    exact ⟨u.valid, u.contention, hstep.trans (congrArg _ (eq_withFlags_of_forgetFlags_eq hforget))⟩
  case fault => exact forgetFlagsIn_eq_fault (h ▸ stepWith_withFlags p v c s)

end Sys2Proof.Machine
end

section
/-! Runs: the schedule is consumed move by move; a run with no timeout is the same with and without the bounded wait; an
unanswered sample waits; a run that has ended stays (R87, R91, R140, R155). -/

namespace Sys2Proof.Machine

theorem runWith_zero (p : Config.Params) (s : State) : runWith p 0 s = .next s := rfl

theorem runWith_succ_of_next {p : Config.Params} {s t : State} (h : stepWith p s = .next t) (n : Nat) :
    runWith p (n + 1) s = runWith p n t := by
  rw [runWith, h]

/-- Every move but the reading of the schedule itself leaves the schedule alone. -/
theorem MoveEffect.sched_eq {p : Config.Params} {m : Move} {s t : State} (h : MoveEffect p m s t) : t.sched = s.sched := by
  cases h <;> rfl

/-- A step takes the next move, if one is scheduled, from the schedule. -/
theorem stepWith_sched {p : Config.Params} {s t : State} (h : stepWith p s = .next t) : t.sched = s.sched.tail :=
  (stepWith_effect h).sched_eq

/-- The next move is a scheduled one or a move of the block or the host. -/
theorem nextMove_cases (s : State) : nextMove s ∈ s.sched ∨ nextMove s = .block ∨ nextMove s = .host := by
  unfold nextMove
  split
  · unfold defaultMove
    split <;> simp
  · rename_i m r h
    exact .inl (h ▸ List.mem_cons_self)

/-! ### The bounded wait -/

/-- A move that is no timeout does not depend on `BOUNDED_WAIT`. -/
theorem moveWith_boundedWait (sa sg : ℕ+) {m : Move} (hm : m ≠ .timeout) (s : State) :
    moveWith ⟨sa, sg, true⟩ m s = moveWith ⟨sa, sg, false⟩ m s := by
  cases m with
  | timeout => exact absurd rfl hm
  | block | host | rxArrive | reset | txReady | sinkReady => rfl

/-- Settles O52, by induction on the number of steps: the move of each step is no timeout (`moveWith_boundedWait`), and the
schedule that is left holds none either. -/
theorem unboundedRunsAreBoundedRuns : Obligations.UnboundedRunsAreBoundedRuns := by
  intro sa sg n
  induction n with
  | zero => exact fun _ _ => rfl
  | succ n ih =>
    intro s hsched
    have hmove : nextMove s ≠ .timeout := by
      obtain hmem | hblock | hhost := nextMove_cases s
      · exact hsched _ hmem
      · simp [hblock]
      · simp [hhost]
    have hstep : stepWith ⟨sa, sg, true⟩ s = stepWith ⟨sa, sg, false⟩ s := by
      rw [stepWith_eq_moveWith, stepWith_eq_moveWith, moveWith_boundedWait sa sg hmove]
    rw [runWith, runWith, hstep]
    cases hnext : stepWith ⟨sa, sg, false⟩ s with
    | next t => exact ih t fun m hm => hsched m (List.mem_of_mem_tail (stepWith_sched hnext ▸ hm))
    | fault | refused => rfl

/-! ### An unanswered sample -/

/-- The block waits for a byte of a frame, and the stream is empty (R87). -/
def AwaitsByte (s : State) : Prop := (s.phase = .rxData ∨ s.phase = .rxDelim) ∧ s.rxq = []

/-- `t` is `s` but for the response, the host's acts and record, the readiness of the transports, and the schedule. -/
def SameBlock (s t : State) : Prop :=
  t = { s with resp := t.resp, hostq := t.hostq, taken := t.taken, txReady := t.txReady, sinkReady := t.sinkReady,
               sched := t.sched }

/-- Where no response stands before, none stands after, and the host has done no act. -/
def HostWaited (s t : State) : Prop := s.resp = none → t.resp = none ∧ t.hostq = s.hostq ∧ t.taken = s.taken

theorem SameBlock.refl (s : State) : SameBlock s s := rfl

theorem SameBlock.trans {s t u : State} (hst : SameBlock s t) (htu : SameBlock t u) : SameBlock s u := by
  unfold SameBlock at *
  rw [htu, hst]

theorem HostWaited.trans {s t u : State} (hst : HostWaited s t) (htu : HostWaited t u) : HostWaited s u := by
  intro hs
  obtain ⟨ht, hq, htaken⟩ := hst hs
  obtain ⟨hu, hq', htaken'⟩ := htu ht
  exact ⟨hu, hq'.trans hq, htaken'.trans htaken⟩

theorem AwaitsByte.blockEnabled_eq {s : State} (h : AwaitsByte s) : s.blockEnabled = false := by
  obtain ⟨hphase | hphase, hq⟩ := h <;> simp [State.blockEnabled, hphase, hq]

theorem AwaitsByte.of_sameBlock {s t : State} (h : AwaitsByte s) (hst : SameBlock s t) : AwaitsByte t := by
  unfold SameBlock at hst
  rw [hst]
  exact h

/-- A waiting block's step leaves the state (R87). -/
theorem AwaitsByte.blockStep_eq {s : State} (h : AwaitsByte s) (p : Config.Params) : blockStep p s = .next s := by
  obtain ⟨hphase | hphase, hq⟩ := h
  · simp [blockStep, hphase, stepRxData, busRead_nil hq]
  · simp [blockStep, hphase, stepRxDelim, busRead_nil hq]

/-- While the block waits for a byte, a host's act is at most the taking of a response (R35, R36). -/
theorem AwaitsByte.hostMove_next {s : State} (h : AwaitsByte s) :
    ∃ t, hostMove s = .next t ∧ SameBlock s t ∧ HostWaited s t := by
  obtain e | ⟨_, _, _, hopen, _⟩ | ⟨q, r, _, hr, e⟩ := hostMove_cases s
  · exact ⟨s, e, .refl s, fun hnone => ⟨hnone, rfl, rfl⟩⟩
  · obtain ⟨hidle, _⟩ := (cmdEnabled_iff s).mp hopen
    obtain ⟨hphase | hphase, _⟩ := h <;> simp [hidle] at hphase
  · exact ⟨_, e, rfl, fun hnone => by simp [hnone] at hr⟩

/-- Without the bounded wait, a move that is no reset and no arrival leaves a waiting block waiting, and lets the host do
nothing but take a response. -/
theorem AwaitsByte.moveWith_next {p : Config.Params} (hp : p.boundedWait = false) {s : State} (h : AwaitsByte s)
    {m : Move} (hreset : m ≠ .reset) (harrive : ∀ b, m ≠ .rxArrive b) :
    ∃ t, moveWith p m s = .next t ∧ SameBlock s t ∧ HostWaited s t := by
  have hstay : SameBlock s s ∧ HostWaited s s := ⟨.refl s, fun hnone => ⟨hnone, rfl, rfl⟩⟩
  cases m with
  | block => exact ⟨s, h.blockStep_eq p, hstay⟩
  | host => exact h.hostMove_next
  | timeout => exact ⟨s, by simp [moveWith, stepTimeout, timeoutEnabled, hp], hstay⟩
  | txReady v | sinkReady v => exact ⟨_, rfl, rfl, fun hnone => ⟨hnone, rfl, rfl⟩⟩
  | reset => exact absurd rfl hreset
  | rxArrive b => exact absurd rfl (harrive b)

/-- So any number of steps leave it waiting. -/
theorem AwaitsByte.runWith_next {p : Config.Params} (hp : p.boundedWait = false) (n : Nat) {s : State} (h : AwaitsByte s)
    (hsched : ∀ m ∈ s.sched, m ≠ .reset ∧ ∀ b, m ≠ .rxArrive b) :
    ∃ t, runWith p n s = .next t ∧ SameBlock s t ∧ HostWaited s t := by
  induction n generalizing s with
  | zero => exact ⟨s, rfl, .refl s, fun hnone => ⟨hnone, rfl, rfl⟩⟩
  | succ n ih =>
    have hmove : nextMove s ≠ .reset ∧ ∀ b, nextMove s ≠ .rxArrive b := by
      obtain hmem | hblock | hhost := nextMove_cases s
      · exact hsched _ hmem
      · simp [hblock]
      · simp [hhost]
    obtain ⟨hreset, harrive⟩ := hmove
    obtain ⟨t, hstep, hsame, hhost⟩ :=
      AwaitsByte.moveWith_next hp (s := { s with sched := s.sched.tail }) h hreset harrive
    rw [← stepWith_eq_moveWith] at hstep
    replace hsame : SameBlock s t := SameBlock.trans (t := { s with sched := s.sched.tail }) rfl hsame
    replace hhost : HostWaited s t := hhost
    obtain ⟨u, hrun, hsame', hhost'⟩ := ih (h.of_sameBlock hsame)
      fun m hm => hsched m (List.mem_of_mem_tail (stepWith_sched hstep ▸ hm))
    exact ⟨u, (runWith_succ_of_next hstep n).trans hrun, hsame.trans hsame', hhost.trans hhost'⟩

/-- Settles O12: `AwaitsByte` is kept by every step of such a run (`AwaitsByte.runWith_next`), and under the invariant no
response stands outside `IDLE`. -/
theorem unansweredSampleWaits : Obligations.UnansweredSampleWaits := by
  intro p n s hp hphase hq hsched
  have hawaits : AwaitsByte s := ⟨hphase, hq⟩
  obtain ⟨t, hrun, hsame, hhost⟩ := hawaits.runWith_next hp n hsched
  refine ⟨hawaits.blockEnabled_eq, t, hrun, hsame, fun inv => ?_⟩
  have hresp : s.resp = none := inv.resp_eq_none (by obtain h | h := hphase <;> simp [h])
  obtain ⟨htresp, hhostq, htaken⟩ := hhost hresp
  exact ⟨htresp, hresp, hhostq, htaken⟩

/-! ### A run that has ended -/

/-- With nothing scheduled, an idle block with no code to come and no response to take changes nothing (R155). -/
theorem RunEnded.stepWith_eq {s : State} (h : RunEnded s) (hsched : s.sched = []) (p : Config.Params) :
    stepWith p s = .next s := by
  obtain ⟨hcodes, hphase, hresp⟩ := h
  have hmove : nextMove s = .host := by simp [nextMove, hsched, defaultMove, State.blockEnabled, hphase]
  have hstate : { s with sched := s.sched.tail } = s := by rw [hsched, List.tail_nil, ← hsched]
  rw [stepWith_eq_moveWith, hmove, hstate]
  show hostMove s = .next s
  obtain e | ⟨c, q, hq, _, _⟩ | ⟨_, r, _, hr, _⟩ := hostMove_cases s
  · exact e
  · exact absurd (hq ▸ List.mem_cons_self) (hcodes c)
  · simp [hresp] at hr

/-- Settles O53, by induction on the number of steps, each of which leaves the state (`RunEnded.stepWith_eq`). -/
theorem endedRunStays : Obligations.EndedRunStays := by
  intro p n s hended hsched
  refine ⟨s, ?_, rfl, rfl⟩
  induction n with
  | zero => rfl
  | succ n ih => rw [runWith_succ_of_next (hended.stepWith_eq hsched p), ih]

end Sys2Proof.Machine
end

section
/-! The block's steps phase by phase: ASSERT, REQUEST, RELEASE, RXDATA, RXDELIM, PROCESS, EMIT and the timeout (R78 to R80,
R85, R86, R91, R108, R120). -/

namespace Sys2Proof.Machine

theorem cmdEnabled_of_open {s : State} (hphase : s.phase = .idle) (hresp : s.resp = none) : s.cmdEnabled = true :=
  (cmdEnabled_iff s).mpr ⟨hphase, hresp⟩

theorem cmdEnabled_of_closed {s : State} (h : ¬ (s.phase = .idle ∧ s.resp = none)) : s.cmdEnabled = false := by
  rw [← Bool.not_eq_true, cmdEnabled_iff]
  exact h

/-- At a closed port no command has any effect (R35). -/
theorem exec_closed {s : State} (h : ¬ (s.phase = .idle ∧ s.resp = none)) (i : Instr) : exec i s = .next s := by
  cases i <;> exact accept_closed (cmdEnabled_of_closed h)

theorem exec_sample_open {s : State} (hphase : s.phase = .idle) (hresp : s.resp = none) :
    exec .sample s = .next (stepAssert .sample s) :=
  accept_open (cmdEnabled_of_open hphase hresp)

theorem exec_dump_open {s : State} (hphase : s.phase = .idle) (hresp : s.resp = none) :
    exec .dump s = .next (stepAssert .dump s) :=
  accept_open (cmdEnabled_of_open hphase hresp)

/-- Settles O7: at an open port both commands are ASSERT; at a closed one they are nothing (`exec_closed`). -/
theorem assertTakesBus : Obligations.AssertTakesBus :=
  ⟨fun _ hphase hresp => ⟨exec_sample_open hphase hresp, exec_dump_open hphase hresp⟩,
    fun _ hclosed => ⟨exec_closed hclosed _, exec_closed hclosed _⟩,
    fun _ inv hphase => inv.dir_eq_false (by simp [hphase]) (by simp [hphase]),
    stepAssert .sample State.reset, rfl, rfl, rfl, rfl⟩

/-! ### REQUEST and RELEASE -/

theorem blockStep_reqTx (p : Config.Params) {s : State} (hphase : s.phase = .reqTx) :
    blockStep p s = .next (stepRequest s) := by
  simp [blockStep, hphase]

theorem blockStep_request (p : Config.Params) {s : State} (hphase : s.phase = .reqTx) (hready : s.txReady = true) :
    blockStep p s = .next { s with hist := s.hist ++ [.tx 0x3C], phase := .turn } := by
  rw [blockStep_reqTx p hphase, stepRequest, if_pos hready]
  rfl

theorem blockStep_request_waits (p : Config.Params) {s : State} (hphase : s.phase = .reqTx) (hready : s.txReady = false) :
    blockStep p s = .next s := by
  rw [blockStep_reqTx p hphase, stepRequest, if_neg (by simp [hready])]

theorem txCount_append (h h' : List HistEvent) : txCount (h ++ h') = txCount h + txCount h' :=
  List.countP_append

/-- No move from another phase writes to the bus (R79). -/
theorem MoveEffect.txCount_hist {p : Config.Params} {m : Move} {s t : State} (h : MoveEffect p m s t)
    (hphase : s.phase ≠ .reqTx) : txCount t.hist = txCount s.hist := by
  cases h with
  | request _ hreq _ => exact absurd hreq hphase
  | stay | processDump | take | arrive | txReady | sinkReady => rfl
  | release | rxData | rxDelim | processSample | emitByte | emitEnd | assert | get | illegal | timeout =>
    exact txCount_append _ _
  | reset => cases hdir : s.dir <;> simp [hdir, txCount_append] <;> rfl

/-- Settles O8: REQUEST with the transmitter ready and not, and that no step from another phase counts
(`MoveEffect.txCount_hist`). -/
theorem requestSendsOneByte : Obligations.RequestSendsOneByte := by
  refine ⟨fun p _ hphase hready => blockStep_request p hphase hready,
    fun p _ hphase hready => blockStep_request_waits p hphase hready, fun p s t h => ?count⟩
  case count =>
    by_cases hphase : s.phase = .reqTx
    · cases hready : s.txReady with
      | true =>
        obtain rfl : _ = t := Host.Outcome.next.inj ((blockStep_request p hphase hready).symm.trans h)
        simp [hphase, txCount_append]
        rfl
      | false =>
        obtain rfl : s = t := Host.Outcome.next.inj ((blockStep_request_waits p hphase hready).symm.trans h)
        simp
    · simp [hphase, (blockStep_effect h).txCount_hist hphase]

theorem blockStep_release (p : Config.Params) {s : State} (hphase : s.phase = .turn) :
    blockStep p s = .next (stepRelease s) := by
  simp [blockStep, hphase]

/-- Settles O9: in `TURN` the block's step is RELEASE. -/
theorem releaseYieldsBus : Obligations.ReleaseYieldsBus :=
  fun p _ hphase => blockStep_release p hphase

/-! ### RXDATA and RXDELIM -/

theorem blockStep_rxData (p : Config.Params) {s : State} {b : Byte} {q : List Byte} (hphase : s.phase = .rxData)
    (hq : s.rxq = b :: q) (hroom : s.rxCount < Config.dataLen) :
    blockStep p s = .next (storeDataByte b { s with rxq := q, hist := s.hist ++ [.rx b] }) := by
  simp [blockStep, hphase, stepRxData, busRead_cons hq, hroom]

theorem blockStep_rxDelim (p : Config.Params) {s : State} {b : Byte} {q : List Byte} (hphase : s.phase = .rxDelim)
    (hq : s.rxq = b :: q) :
    blockStep p s = .next { s with rxq := q, hist := s.hist ++ [.rx b], phase := .process } := by
  simp [blockStep, hphase, stepRxDelim, busRead_cons hq]

/-- In a bounded wait on an empty stream a timeout ends the wait in `IDLE` (R91). -/
theorem AwaitsByte.stepTimeout_eq {p : Config.Params} {s : State} (h : AwaitsByte s) (hp : p.boundedWait = true) :
    stepTimeout p s = raiseErr (timeoutStatus s) s :=
  stepTimeout_of_enabled ((timeoutEnabled_iff p s).mpr ⟨hp, h⟩)

/-- Settles O10: RXDATA stores at `rx_count` (`Memory.read_write`), or waits (`AwaitsByte.blockStep_eq`). -/
theorem rxDataStoresByte : Obligations.RxDataStoresByte := by
  refine ⟨fun p s b q hphase hq hroom hwf => ?stores, fun p s hphase hq => ?waits⟩
  case stores =>
    refine ⟨_, blockStep_rxData p hphase hq hroom, fun k => Memory.read_write s.rxCount k b hwf, ?_⟩
    rw [← hphase]
    rfl
  case waits =>
    have hawaits : AwaitsByte s := ⟨.inl hphase, hq⟩
    exact ⟨hawaits.blockStep_eq p, fun hp => hawaits.stepTimeout_eq hp ▸ raiseErr_phase s (timeoutStatus s)⟩

/-- Settles O11: RXDELIM discards the head of the stream, or waits (`AwaitsByte.blockStep_eq`). -/
theorem rxDelimDiscardsOneByte : Obligations.RxDelimDiscardsOneByte := by
  refine ⟨fun p _ _ _ hphase hq => blockStep_rxDelim p hphase hq, fun p s hphase hq => ?waits⟩
  case waits =>
    have hawaits : AwaitsByte s := ⟨.inr hphase, hq⟩
    exact ⟨hawaits.blockStep_eq p, fun hp => hawaits.stepTimeout_eq hp ▸ raiseErr_phase s (timeoutStatus s)⟩

/-! ### PROCESS and EMIT -/

theorem blockStep_process (p : Config.Params) {s : State} (hphase : s.phase = .process) :
    blockStep p s = .next (stepProcess p s) := by
  simp [blockStep, hphase]

theorem blockStep_process_sample (p : Config.Params) {s : State} (hphase : s.phase = .process) (hcur : s.cur = .sample) :
    blockStep p s = .next (respondStatus .ok (commit p s)) := by
  rw [blockStep_process p hphase, stepProcess, if_pos hcur]

theorem blockStep_process_dump (p : Config.Params) {s : State} (hphase : s.phase = .process) (hcur : s.cur ≠ .sample) :
    blockStep p s = .next (startEmit (commit p s)) := by
  rw [blockStep_process p hphase, stepProcess, if_neg hcur]

/-- Settles O24: the cache committed is `scaledCache` of the frame buffer, and PROCESS goes on by the command. -/
theorem processCommitsFrame : Obligations.ProcessCommitsFrame :=
  fun p s hphase => ⟨scaledCache p s.fbuf, get_scaledCache p s.fbuf, blockStep_process_sample p hphase,
    blockStep_process_dump p hphase⟩

theorem blockStep_emit (p : Config.Params) {s : State} (hphase : s.phase = .emit) :
    blockStep p s = .next (stepEmit s) := by
  simp [blockStep, hphase]

theorem blockStep_emit_byte (p : Config.Params) {s : State} {b : Byte} (hphase : s.phase = .emit)
    (hb : s.text[s.tidx]? = some b) (hready : s.sinkReady = true) :
    blockStep p s = .next { s with hist := s.hist ++ [.text b], tidx := s.tidx + 1 } := by
  rw [blockStep_emit p hphase]
  simp [stepEmit, hb, hready, sinkWrite]

theorem blockStep_emit_waits (p : Config.Params) {s : State} (hphase : s.phase = .emit) (hlt : s.tidx < s.text.length)
    (hready : s.sinkReady = false) : blockStep p s = .next s := by
  rw [blockStep_emit p hphase]
  simp [stepEmit, List.getElem?_eq_getElem hlt, hready]

theorem blockStep_emit_end (p : Config.Params) {s : State} (hphase : s.phase = .emit) (hle : s.text.length ≤ s.tidx) :
    blockStep p s = .next (respondStatus .ok s) := by
  rw [blockStep_emit p hphase]
  simp [stepEmit, List.getElem?_eq_none hle]

/-- Settles O36: EMIT with a byte and a ready sink, with a byte and none, and with no byte left. -/
theorem emitWritesTextThenAnswers : Obligations.EmitWritesTextThenAnswers :=
  ⟨fun p _ _ hphase hb hready => blockStep_emit_byte p hphase hb hready,
    fun p _ hphase hlt hready => blockStep_emit_waits p hphase hlt hready,
    fun p _ hphase hle => blockStep_emit_end p hphase hle⟩

end Sys2Proof.Machine
end

section
/-! The ports and the environment's events: commands presented, responses taken, arrivals, timeouts and reset (R35, R36, R38,
R42, R91, R106, R115, R141). -/

namespace Sys2Proof.Machine

/-! ### Statuses and timeouts -/

/-- Settles O54: the tables of R71 and R72, and that the code of a status response stands below eight zero bits. -/
theorem statusResponseEncoding : Obligations.StatusResponseEncoding := by
  refine ⟨rfl, rfl, rfl, rfl, rfl, rfl, rfl, fun st s => ?_⟩
  rw [respondStatus_resp]
  cases st <;> rfl

/-- The response of a timeout: no byte of the frame read is `BUS_TIMEOUT`, else `FRAME_UNDERRUN` (R91). -/
theorem statusResponse_timeoutStatus (s : State) :
    statusResponse (timeoutStatus s) = ⟨.status, if s.phase = .rxData ∧ s.rxCount = 0 then 0x0001 else 0x0002⟩ := by
  unfold timeoutStatus
  split <;> rfl

/-- A scheduled timeout is `stepTimeout`, with the move taken from the schedule. -/
theorem stepWith_timeout (p : Config.Params) {s : State} {r : List Move} (hsched : s.sched = .timeout :: r) :
    stepWith p s = .next (stepTimeout p { s with sched := r }) := by
  rw [stepWith, hsched]
  rfl

theorem stepTimeout_of_not_enabled {p : Config.Params} {s : State} (h : timeoutEnabled p s = false) :
    stepTimeout p s = s := by
  simp [stepTimeout, h]

/-- Settles O13: an enabled timeout is error completion with `statusResponse_timeoutStatus`; one that is not enabled is
nothing. -/
theorem timeoutEndsCommand : Obligations.TimeoutEndsCommand := by
  refine ⟨fun p s r hsched hp hphase hq => ?ends, fun p s r hsched hdisabled => ?nothing⟩
  case ends =>
    have hawaits : AwaitsByte { s with sched := r } := ⟨hphase, hq⟩
    have hresp := statusResponse_timeoutStatus { s with sched := r }
    rw [stepWith_timeout p hsched, hawaits.stepTimeout_eq hp]
    exact congrArg (fun resp => Host.Outcome.next { s with
      sched := r, phase := .idle, cur := .none, resp := some resp, hist := s.hist ++ [HistEvent.resp resp] }) hresp
  case nothing =>
    rw [stepWith_timeout p hsched, stepTimeout_of_not_enabled]
    rw [← Bool.not_eq_true, timeoutEnabled_iff]
    exact hdisabled

/-- While the bus is not owned an arriving byte joins the stream and does nothing else (R38). -/
theorem rxArrive_not_owned {s : State} (hdir : s.dir = false) (b : Byte) :
    rxArrive b s = { s with rxq := s.rxq ++ [b] } := by
  simp [rxArrive, noteContention, arrivedByte, hdir]

/-- While it is owned, the byte is contention's free value (R82). -/
theorem rxArrive_owned {s : State} (hdir : s.dir = true) (b : Byte) :
    rxArrive b s = { s with
      rxq := s.rxq ++ [Config.contentionByte s.draws], contention := true, draws := s.draws + 1 } := by
  simp [rxArrive, noteContention, arrivedByte, hdir]

/-- Settles O31: an arrival with the bus not owned and owned. -/
theorem arrivingByteIsQueued : Obligations.ArrivingByteIsQueued :=
  ⟨fun _ _ b hdir => congrArg Host.Outcome.next (rxArrive_not_owned hdir b),
    fun _ s b hdir => ⟨Config.contentionByte s.draws, congrArg Host.Outcome.next (rxArrive_owned hdir b)⟩⟩

/-- Settles O14: with a byte on the stream a timeout is not enabled; after the timeout the byte is queued all the same. -/
theorem timeoutAndArrivalEitherOrder : Obligations.TimeoutAndArrivalEitherOrder := by
  intro p s b hp hphase hq hdir
  refine ⟨⟨_, rfl, ?_, ?byteFirst⟩, ⟨_, _, rfl, ?_, rfl, ?_, rfl⟩⟩
  case byteFirst =>
    refine congrArg Host.Outcome.next (stepTimeout_of_not_enabled ?_)
    simp [timeoutEnabled]
  · simp [hq, arrivedByte_of_not_owned b hdir]
  · rw [AwaitsByte.stepTimeout_eq ⟨hphase, hq⟩ hp, raiseErr_phase]
  · rw [AwaitsByte.stepTimeout_eq ⟨hphase, hq⟩ hp, rxArrive_not_owned (by exact hdir)]
    simp [hq]

/-! ### The host's ports -/

theorem hostMove_cmd_open {s : State} {c : Byte} {q : List HostAct} (hq : s.hostq = .cmd c :: q) (hphase : s.phase = .idle)
    (hresp : s.resp = none) : hostMove s = acceptCommand c { s with hostq := q } := by
  simp [hostMove, hq, cmdEnabled_of_open hphase hresp]

theorem hostMove_cmd_closed {s : State} {c : Byte} {q : List HostAct} (hq : s.hostq = .cmd c :: q)
    (hclosed : ¬ (s.phase = .idle ∧ s.resp = none)) : hostMove s = .next s := by
  simp [hostMove, hq, cmdEnabled_of_closed hclosed]

theorem acceptCommand_of_decode {c : Byte} {i : Instr} (h : decode c = .ok i) (s : State) :
    acceptCommand c s = exec i s := by
  simp [acceptCommand, h]

/-- A scheduled move of the host is the host's act, with the move taken from the schedule. -/
theorem stepWith_host (p : Config.Params) {s : State} {r : List Move} (hsched : s.sched = .host :: r) :
    stepWith p s = hostMove { s with sched := r } := by
  rw [stepWith, hsched]
  rfl

/-- With nothing scheduled and the block idle, the host moves (the model's choice, notes/assumptions/2.md). -/
theorem stepWith_idle (p : Config.Params) {s : State} (hsched : s.sched = []) (hphase : s.phase = .idle) :
    stepWith p s = hostMove s := by
  simp [stepWith, hsched, defaultMove, State.blockEnabled, hphase, moveWith]

/-- Settles O28: the port's condition closes `exec`, the host's act and the acceptance of any code alike. -/
theorem closedPortMakesHostWait : Obligations.ClosedPortMakesHostWait := by
  intro s hclosed
  refine ⟨exec_closed hclosed, fun _ _ hq => hostMove_cmd_closed hq hclosed, fun c => ?accepted⟩
  case accepted =>
    unfold acceptCommand
    split
    · exact exec_closed hclosed _
    · exact accept_closed (cmdEnabled_of_closed hclosed)

/-- Settles O30: taking the response where there is one, and where there is none. -/
theorem takeResponseEmptiesRegister : Obligations.TakeResponseEmptiesRegister :=
  ⟨fun _ _ _ hq hresp => by simp [hostMove, hq, takeResp, hresp],
    fun _ _ hq hresp => by simp [hostMove, hq, takeResp, hresp]⟩

/-- Settles O32: reset sets every register of the block and leaves the environment's fields. -/
theorem resetRestoresBlock : Obligations.ResetRestoresBlock := by
  intro p s
  cases hdir : s.dir <;> simp [moveWith, resetEvent, State.reset, hdir]

end Sys2Proof.Machine
end

section
/-! The decoder: a code decodes to a command exactly where it is that command's word, so a program's words and its commands
determine each other (R64 to R68). -/

namespace Sys2Proof.Machine

theorem encode_get (ch : Channel) : encode (Instr.get ch) = encodeGet ch := by
  cases ch <;> rfl

/-- Each command is `SAMPLE`, `DUMP` or the `GET_*` of a channel (R65). -/
theorem instr_cases (i : Instr) : i = .sample ∨ i = .dump ∨ ∃ ch, i = Instr.get ch := by
  cases i with
  | sample => exact .inl rfl
  | dump => exact .inr (.inl rfl)
  | getAccX => exact .inr (.inr ⟨.accX, rfl⟩)
  | getAccY => exact .inr (.inr ⟨.accY, rfl⟩)
  | getAccZ => exact .inr (.inr ⟨.accZ, rfl⟩)
  | getGyroRoll => exact .inr (.inr ⟨.gyroRoll, rfl⟩)
  | getGyroPitch => exact .inr (.inr ⟨.gyroPitch, rfl⟩)
  | getGyroYaw => exact .inr (.inr ⟨.gyroYaw, rfl⟩)

@[simp] theorem decode_encode (i : Instr) : decode (encode i) = .ok i := by
  obtain rfl | rfl | ⟨ch, rfl⟩ := instr_cases i
  · rfl
  · rfl
  · rw [encode_get, decode_encodeGet]

/-- A code is its opcode field followed by its channel field (R64). -/
theorem append_of_fields (c : Byte) : opcodeField c ++ BitVec.ofNat 3 (channelField c) = c := by
  apply BitVec.eq_of_getLsbD_eq
  intro i hi
  simp only [opcodeField, channelField, BitVec.ofNat_toNat, BitVec.setWidth_eq, BitVec.getLsbD_append,
    BitVec.getLsbD_extractLsb']
  by_cases hlow : i < 3
  · simp [hlow]
  · have hshift : 3 + (i - 3) = i := by omega
    have hhigh : i - 3 < 5 := by omega
    simp [hlow, hhigh, hshift]

/-- Only the index of a channel names it (R21). -/
theorem index_of_ofIndex {n : Nat} {ch : Channel} (h : Channel.ofIndex n = some ch) : ch.index = n := by
  by_cases hn : n < 6
  · obtain ⟨ch', rfl⟩ := exists_index hn
    rw [ofIndex_index] at h
    rw [Option.some.inj h]
  · rw [ofIndex_large (not_lt.mp hn)] at h
    cases h

/-- What a code decodes to, if anything, has that code as its word. -/
theorem eq_encode_of_decode {c : Byte} {i : Instr} (h : decode c = .ok i) : c = encode i := by
  unfold decode at h
  split at h
  · rename_i hc
    injection h with h
    rw [hc, ← h]
    rfl
  · split at h
    · rename_i hc
      injection h with h
      rw [hc, ← h]
      rfl
    · split at h
      · rename_i hop
        split at h
        · rename_i ch hch
          injection h with h
          rw [← h, encode_get, encodeGet, index_of_ofIndex hch, ← hop, append_of_fields]
        · cases h
      · cases h

theorem decode_eq_ok_iff (c : Byte) (i : Instr) : decode c = .ok i ↔ c = encode i :=
  ⟨eq_encode_of_decode, fun h => h ▸ decode_encode i⟩

/-- The decoder rejects a code only by its own name (R66). -/
theorem decode_cases (c : Byte) : (∃ i, decode c = .ok i) ∨ decode c = .error (.illegal c) := by
  unfold decode
  split
  · exact .inl ⟨_, rfl⟩
  · split
    · exact .inl ⟨_, rfl⟩
    · split
      · split
        · exact .inl ⟨_, rfl⟩
        · exact .inr rfl
      · exact .inr rfl

theorem decode_illegal {c : Byte} (h : ∀ i, c ≠ encode i) : decode c = .error (.illegal c) := by
  obtain ⟨i, hi⟩ | herror := decode_cases c
  · exact absurd (eq_encode_of_decode hi) (h i)
  · exact herror

/-- Settles O1: the encoder's words read off, and the neighbours decoded. -/
theorem commandWordsDecode : Obligations.CommandWordsDecode := by
  unfold Obligations.CommandWordsDecode
  refine ⟨decode_encode .sample, decode_encode .dump, decode_encode .getAccX, decode_encode .getAccY,
    decode_encode .getAccZ, decode_encode .getGyroRoll, decode_encode .getGyroPitch, decode_encode .getGyroYaw, ?_⟩
  refine ⟨?_, ?_, ?_, ?_, ?_, ?_, ?_, ?_, ?_, ?_⟩ <;> exact decode_illegal (fun i => by cases i <;> decide)

/-- Settles O2: decoding inverts encoding (`decode_eq_ok_iff`), and a count over the 256 codes. -/
theorem decodeInvertsEncode : Obligations.DecodeInvertsEncode :=
  ⟨decode_eq_ok_iff, fun _ h => decode_illegal h, by decide +kernel⟩

/-- A program of commands' words decodes to the commands. -/
theorem decodeProgram_map_encode (is : List Instr) : decodeProgram (is.map encode) = .ok is := by
  induction is with
  | nil => rfl
  | cons i is ih => simp [decodeProgram, ih]

theorem eq_map_encode_of_decodeProgram {cs : List Byte} {is : List Instr} (h : decodeProgram cs = .ok is) :
    cs = is.map encode := by
  induction cs generalizing is with
  | nil =>
    cases h
    rfl
  | cons c cs ih =>
    unfold decodeProgram at h
    split at h
    · cases h
    · rename_i i hi
      split at h
      · cases h
      · rename_i rest hrest
        cases h
        rw [List.map_cons, ← eq_encode_of_decode hi, ← ih hrest]

/-- Settles O3: one direction by induction on the commands, the other on the words. -/
theorem programWordsRoundTrip : Obligations.ProgramWordsRoundTrip :=
  fun _ is => ⟨eq_map_encode_of_decodeProgram, fun h => h ▸ decodeProgram_map_encode is⟩

/-! ### Codes presented at the port -/

/-- Settles O27: the decoder rejects such a code (`decode_illegal`), and the open port answers it. -/
theorem illegalCodesAnswered : Obligations.IllegalCodesAnswered := by
  intro s c q r hillegal hsched hq hphase hresp
  have haccept := accept_open (f := raiseErr .illegalCommand) (s := { s with hostq := q, sched := r })
    (cmdEnabled_of_open hphase hresp)
  rw [step, stepWith_host _ hsched, hostMove_cmd_open (by exact hq) (by exact hphase) (by exact hresp), acceptCommand,
    decode_illegal hillegal]
  exact haccept

/-- The word of a command in the table's bits is that command's word (R68). -/
theorem commandWord_encode (i : Instr) : commandWord 8 (encode i).toNat = encode i := by
  cases i <;> rfl

/-- Settles O29: the host's act at an open port is the acceptance of the code, which runs the decoded command; a fetched
word is such an act placed first. -/
theorem stepRunsDecodedCommand : Obligations.StepRunsDecodedCommand := by
  refine ⟨fun s c i q r hsched hq hphase hresp hdecode => ?scheduled,
    fun s c i q hsched hq hphase hresp hdecode => ?default, fun s i _ hphase hresp => ?fetched⟩
  case scheduled =>
    rw [step, stepWith_host _ hsched, hostMove_cmd_open (by exact hq) (by exact hphase) (by exact hresp),
      acceptCommand_of_decode hdecode]
  case default =>
    rw [step, stepWith_idle _ hsched hphase, hostMove_cmd_open hq hphase hresp, acceptCommand_of_decode hdecode]
  case fetched =>
    rw [State.withFetchWord, commandWord_encode, step, stepWith_host _ (presentCommand_sched s _),
      hostMove_cmd_open (c := encode i) (q := s.hostq) (by rfl) (by exact hphase) (by exact hresp),
      acceptCommand_of_decode (decode_encode i)]
    rfl

end Sys2Proof.Machine
end

section
/-! The cache byte view as a memory: reads byte by byte, a write of a whole register, and the source's conversion in place,
which ends with the cache that the block commits (R47, R49, R51, R90). -/

namespace Sys2Proof.Machine

/-- Settles O16: the bytes of an appended pattern swap twice into place (`bswap16_append`). -/
theorem byteSwapInvolution : Obligations.ByteSwapInvolution := by
  refine ⟨fun x => ?_, by decide, by decide, by decide, by decide⟩
  calc bswap16 (bswap16 x) = x.extractLsb' 8 8 ++ x.extractLsb' 0 8 := bswap16_append _ _
    _ = x := append_of_bytes x

/-- A one-byte read gives one byte of one register (R49). -/
theorem cacheRead_byteOffset (c : Cache) (ch : Channel) (odd : Bool) :
    cacheRead c (byteOffset ch odd) 1 = .ok ((wordByte (c.get ch) odd).setWidth 16) := by
  simp only [cacheRead, byteOffset_div_two, ofIndex_index, decide_byteOffset_odd, if_true]

/-- Past offset 11 the view has no byte. -/
theorem cacheRead_past (c : Cache) {a : Nat} (h : 12 ≤ a) (n : Nat) : cacheRead c a n = .error .cacheViewAccess := by
  rw [cacheRead, ofIndex_large (by omega)]

theorem cacheWrite_past (c : Cache) {a : Nat} (h : 12 ≤ a) (n : Nat) (v : Word) :
    cacheWrite c a n v = .error .cacheViewAccess := by
  rw [cacheWrite, ofIndex_large (by omega)]

/-- Settles O18: the two bytes of a register at its offsets (`cacheRead_byteOffset`), and none past the last. -/
theorem cacheByteViewLittleEndian : Obligations.CacheByteViewLittleEndian :=
  ⟨fun c ch => ⟨cacheRead_byteOffset c ch false, cacheRead_byteOffset c ch true⟩, fun c _ h => cacheRead_past c h 1⟩

/-- A two-byte read gives the register (R49). -/
theorem cacheRead_register_eq (c : Cache) (ch : Channel) : cacheRead c (2 * ch.index) 2 = .ok (c.get ch) := by
  rw [cacheRead_register]
  exact congrArg Except.ok (append_of_bytes (c.get ch))

/-- With both bytes replaced, nothing of the old register is left. -/
theorem setWordByte_both (v : Word) (lo hi : Byte) : setWordByte (setWordByte v false lo) true hi = hi ++ lo := by
  simp [setWordByte, low_of_append]

/-- A two-byte write sets the register (R49). -/
theorem cacheWrite_register (c : Cache) (ch : Channel) (v : Word) :
    cacheWrite c (2 * ch.index) 2 v = .ok (c.set ch v) := by
  have hdiv : 2 * ch.index / 2 = ch.index := byteOffset_div_two ch false
  simp [cacheWrite, hdiv, setWordByte_both, append_of_bytes]

theorem cacheWrite_byte_reads (c : Cache) {a : Nat} (ha : a < 12) (v : Word) :
    ∃ c', cacheWrite c a 1 v = .ok c' ∧
      ∀ j, cacheRead c' j 1 = if j = a then .ok ((v.extractLsb' 0 8).setWidth 16) else cacheRead c j 1 := by
  obtain ⟨ch, odd, rfl⟩ := exists_byteOffset ha
  refine ⟨_, cacheWrite_byteOffset c ch odd v, fun j => ?_⟩
  obtain hlt | hle := lt_or_ge j 12
  · obtain ⟨ch', odd', rfl⟩ := exists_byteOffset hlt
    rw [cacheRead_byteOffset, wordByte_set_setWordByte, cacheRead_byteOffset]
    split <;> rfl
  · rw [if_neg (by omega), cacheRead_past _ hle, cacheRead_past _ hle]

theorem cacheWrite_register_reads (c : Cache) (ch : Channel) (v : Word) (j : Nat) :
    cacheRead (c.set ch v) j 1 =
      if j = byteOffset ch false then .ok ((v.extractLsb' 0 8).setWidth 16)
      else if j = byteOffset ch true then .ok ((v.extractLsb' 8 8).setWidth 16)
      else cacheRead c j 1 := by
  have hlow := byteOffset_lt ch false
  have hhigh := byteOffset_lt ch true
  obtain hlt | hle := lt_or_ge j 12
  · obtain ⟨ch', odd', rfl⟩ := exists_byteOffset hlt
    simp only [get_set, byteOffset_inj, cacheRead_byteOffset]
    by_cases hch : ch' = ch
    · subst hch
      cases odd' <;> simp [wordByte]
    · simp [hch]
  · rw [if_neg (by omega), if_neg (by omega), cacheRead_past _ hle, cacheRead_past _ hle]

/-- Every access that is neither one byte at 0 to 11 nor two bytes at an even offset is undefined (R49). -/
theorem cacheView_undefined (c : Cache) {a n : Nat} (v : Word) (hbyte : ¬ (n = 1 ∧ a < 12))
    (hword : ¬ (n = 2 ∧ a < 12 ∧ a % 2 = 0)) :
    cacheRead c a n = .error .cacheViewAccess ∧ cacheWrite c a n v = .error .cacheViewAccess := by
  obtain hlt | hle := lt_or_ge a 12
  · have hone : n ≠ 1 := fun h => hbyte ⟨h, hlt⟩
    have htwo : ¬ (n = 2 ∧ a % 2 = 0) := fun h => hword ⟨h.1, hlt, h.2⟩
    obtain ⟨ch, hch⟩ := exists_index (show a / 2 < 6 by omega)
    simp only [cacheRead, cacheWrite, ← hch, ofIndex_index, if_neg hone, if_neg htwo, and_self]
  · exact ⟨cacheRead_past c hle n, cacheWrite_past c hle n v⟩

/-- Settles O19: a write of one byte and of one register, the read of a register, and the accesses that are neither. -/
theorem cacheByteViewReadAfterWrite : Obligations.CacheByteViewReadAfterWrite := by
  refine ⟨fun c _ v ha => cacheWrite_byte_reads c ha v, fun c a v ha heven => ?register, cacheRead_register_eq,
    fun c _ _ v hbyte hword => cacheView_undefined c v hbyte hword⟩
  case register =>
    obtain ⟨ch, hch⟩ := exists_index (show a / 2 < 6 by omega)
    obtain rfl : a = 2 * ch.index := by omega
    exact ⟨_, cacheWrite_register c ch v, cacheWrite_register_reads c ch v⟩

/-! ### The source's data path -/

/-- A cache is its six registers. -/
theorem cache_ext {c c' : Cache} (h : ∀ ch, c.get ch = c'.get ch) : c = c' := by
  cases c
  cases c'
  simp only [Cache.mk.injEq]
  exact ⟨h .accX, h .accY, h .accZ, h .gyroRoll, h .gyroPitch, h .gyroYaw⟩

/-- The source's conversion of one channel sets that register to the swapped and scaled value of its raw slot (R51). -/
theorem sourceConvert_eq (p : Config.Params) (c : Cache) (ch : Channel) :
    sourceConvert p c ch = .ok (c.set ch (scale p ch (bswap16 (c.get ch)))) := by
  simp only [sourceConvert, cacheRead_register_eq, cacheWrite_register]

/-- Over a list of distinct channels, each is converted from its own raw slot, and every other register is kept. -/
theorem sourceConvertAll_eq (p : Config.Params) (chs : List Channel) (c : Cache) (hnodup : chs.Nodup) :
    ∃ c', sourceConvertAll p c chs = .ok c' ∧
      ∀ ch, c'.get ch = if ch ∈ chs then scale p ch (bswap16 (c.get ch)) else c.get ch := by
  induction chs generalizing c with
  | nil => exact ⟨c, rfl, fun ch => by simp⟩
  | cons ch₀ chs ih =>
    obtain ⟨hfresh, hrest⟩ := List.nodup_cons.mp hnodup
    obtain ⟨c', hconvert, hget⟩ := ih (c.set ch₀ (scale p ch₀ (bswap16 (c.get ch₀)))) hrest
    refine ⟨c', by simp only [sourceConvertAll, sourceConvert_eq, hconvert], fun ch => ?_⟩
    rw [hget, get_set]
    by_cases hch : ch = ch₀
    · subst hch
      simp [hfresh]
    · simp [hch]

theorem channel_mem_all (ch : Channel) : ch ∈ Channel.all := by
  cases ch <;> decide

/-- Settles O20: the raw slot of a channel is its two bytes, low first (`sourceReceive_frame`), whose swap is the local value
that the block commits. -/
theorem inPlaceDataPathEquivalence : Obligations.InPlaceDataPathEquivalence := by
  intro p c bytes m hlen hread
  obtain ⟨c₁, hreceive, hbytes⟩ := sourceReceive_frame c hlen
  obtain ⟨c₂, hconvert, hget⟩ := sourceConvertAll_eq p Channel.all c₁ (by decide)
  have hlocal (ch : Channel) : bswap16 (c₁.get ch) = localValue m ch :=
    calc bswap16 (c₁.get ch) = wordByte (c₁.get ch) false ++ wordByte (c₁.get ch) true := rfl
      _ = bytes.getD (2 * ch.index) 0 ++ bytes.getD (2 * ch.index + 1) 0 := by
        rw [hbytes, hbytes, byteOffset_true, byteOffset_false]
      _ = localValue m ch := by
        rw [localValue, hread (2 * ch.index) (byteOffset_lt ch false), hread (2 * ch.index + 1) (byteOffset_lt ch true)]
  have hcache : c₂ = scaledCache p m := cache_ext fun ch => by
    rw [hget, if_pos (channel_mem_all ch), hlocal, get_scaledCache]
  rw [sourceSample, hreceive, ← hcache]
  exact hconvert

/-! ### The range of the scaler -/

theorem tdiv_natAbs_le {a d : Int} (hd : 0 ≤ d) : (tdiv a d).natAbs ≤ a.natAbs := by
  have hbetween := tdiv_mem_between (a := a) hd
  omega

/-- The negative of a 16-bit value other than `-32768` is the negative of its signed reading. -/
theorem toInt_neg_of_ne_min {v : Word} (h : v ≠ 0x8000) : (-v).toInt = -v.toInt := by
  have hlow : v.toInt ≠ -32768 := fun he => h (BitVec.eq_of_toInt_eq (he.trans (by decide)))
  have hbounds := v.le_toInt
  have hupper := v.toInt_lt
  rw [BitVec.toInt_neg]
  exact Int.bmod_eq_of_le (by omega) (by omega)

theorem tdiv_of_natAbs_lt {a d : Int} (h : (a.natAbs : Int) < d) : tdiv a d = 0 := by
  have hquot : a.natAbs / d.natAbs = 0 := Nat.div_eq_of_lt (by omega)
  simp [tdiv, hquot]

theorem tdiv_one (a : Int) : tdiv a 1 = a := by
  rw [tdiv_eq_intTdiv, Int.tdiv_one]

/-- Settles O23: the quotient lies between the dividend and 0 and is odd in the dividend, and the ends of the range. -/
theorem scaleRangeAndSymmetry : Obligations.ScaleRangeAndSymmetry := by
  have hsmall (p : Config.Params) (ch : Channel) (v : Word) (h : (v.toInt.natAbs : Int) < divisor p ch) :
      scale p ch v = 0 := by
    rw [scale, tdiv_of_natAbs_lt h]
    rfl
  refine ⟨fun p ch v => ?range, fun p ch v hv => ?symmetry, hsmall, fun p ch v h => ?identity, fun p ch v h => ?largest⟩
  case range =>
    rw [toInt_scale]
    exact tdiv_natAbs_le (divisor_pos p ch).le
  case symmetry => rw [scale, scale, toInt_neg_of_ne_min hv, tdiv_neg_left, BitVec.ofInt_neg]
  case identity => rw [scale, h, tdiv_one, BitVec.ofInt_toInt]
  case largest =>
    split
    · rename_i hmin
      rw [scale, h, hmin]
      decide
    · rename_i hne
      have hlow : v.toInt ≠ -32768 := fun he => hne (BitVec.eq_of_toInt_eq (he.trans (by decide)))
      have hbounds := v.le_toInt
      have hupper := v.toInt_lt
      exact hsmall p ch v (by omega)

end Sys2Proof.Machine
end

section
/-! The decimal numeral of a value and the length of the dump text (R119, R123). -/

namespace Sys2Proof.Machine

/-- A numeral of `n`: digits that denote it, with no leading zero (R119). -/
structure Denotes (n : Nat) (ds : List Byte) : Prop where
  nonempty : 1 ≤ ds.length
  digits : ∀ b ∈ ds, 0x30 ≤ b.toNat ∧ b.toNat ≤ 0x39
  noLeadingZero : ds.head? = some 0x30 → ds = [0x30]
  value : digitsValue 0 ds = n

theorem toNat_digitByte {d : Nat} (h : d < 10) : (digitByte d).toNat = 0x30 + d := by
  rw [digitByte, BitVec.toNat_ofNat]
  omega

theorem digitsValue_append_singleton (acc : Nat) (ds : List Byte) (b : Byte) :
    digitsValue acc (ds ++ [b]) = digitsValue acc ds * 10 + (b.toNat - 0x30) := by
  simp [digitsValue]

theorem digitByte_range {d : Nat} (h : d < 10) : 0x30 ≤ (digitByte d).toNat ∧ (digitByte d).toNat ≤ 0x39 := by
  rw [toNat_digitByte h]
  omega

theorem denotes_digit {d : Nat} (h : d < 10) : Denotes d [digitByte d] where
  nonempty := by simp
  digits := by simpa using digitByte_range h
  noLeadingZero := by simp
  value := by simp [digitsValue, toNat_digitByte h]

/-- A digit after a numeral of a number that is not 0 makes a numeral: its first digit is still no zero. -/
theorem Denotes.snoc {n d : Nat} {ds : List Byte} (h : Denotes n ds) (hn : n ≠ 0) (hd : d < 10) :
    Denotes (n * 10 + d) (ds ++ [digitByte d]) where
  nonempty := by simp
  digits := by
    intro b hb
    obtain hb | hb := List.mem_append.mp hb
    · exact h.digits b hb
    · obtain rfl := List.mem_singleton.mp hb
      exact digitByte_range hd
  noLeadingZero := by
    intro hhead
    have hne : ds ≠ [] := List.ne_nil_of_length_pos h.nonempty
    rw [List.head?_append_of_ne_nil _ hne] at hhead
    have hzero : n = 0 := by
      rw [← h.value, h.noLeadingZero hhead]
      rfl
    exact absurd hzero hn
  value := by
    rw [digitsValue_append_singleton, h.value, toNat_digitByte hd]
    omega

/-- With fuel for every digit, `decDigits` writes the numeral. -/
theorem denotes_decDigits (fuel : Nat) : ∀ n, n < 10 ^ (fuel + 1) → Denotes n (decDigits fuel n) := by
  induction fuel with
  | zero =>
    intro n hn
    rw [decDigits, Nat.mod_eq_of_lt (by simpa using hn)]
    exact denotes_digit (by simpa using hn)
  | succ fuel ih =>
    intro n hn
    rw [decDigits]
    split
    · rename_i hdigit
      exact denotes_digit hdigit
    · rename_i hlarge
      have hquot : n / 10 < 10 ^ (fuel + 1) := Nat.div_lt_of_lt_mul (by rwa [← Nat.pow_succ'])
      have hsnoc := (ih (n / 10) hquot).snoc (d := n % 10) (by omega) (by omega)
      rwa [Nat.div_add_mod'] at hsnoc

theorem length_decDigits_le (fuel n : Nat) : (decDigits fuel n).length ≤ fuel + 1 := by
  induction fuel generalizing n with
  | zero => simp [decDigits]
  | succ fuel ih =>
    rw [decDigits]
    split
    · simp
    · simpa using ih (n / 10)

/-- A magnitude has at most five digits. -/
theorem denotes_magnitude (v : Word) : Denotes v.toInt.natAbs (decDigits 4 v.toInt.natAbs) := by
  have hlow := v.le_toInt
  have hhigh := v.toInt_lt
  exact denotes_decDigits 4 _ (by omega)

theorem dec_eq (v : Word) : dec v = (if v.toInt < 0 then [0x2D] else []) ++ decDigits 4 v.toInt.natAbs := by
  rw [dec]
  split <;> rfl

/-- Settles O33: `decDigits` writes the magnitude's numeral (`denotes_magnitude`), after the sign. -/
theorem decimalNumeral : Obligations.DecimalNumeral := by
  intro v
  have h := denotes_magnitude v
  exact ⟨_, dec_eq v, h.nonempty, length_decDigits_le 4 _, h.digits, h.noLeadingZero, h.value⟩

/-- A numeral has 1 to 6 bytes (R119). -/
theorem length_dec (v : Word) : 1 ≤ (dec v).length ∧ (dec v).length ≤ 6 := by
  have hpos := (denotes_magnitude v).nonempty
  have hle := length_decDigits_le 4 v.toInt.natAbs
  rw [dec_eq, List.length_append]
  split <;> simp only [List.length_cons, List.length_nil] <;> omega

/-- Settles O35: the bytes of the layout but the numerals number 87, and each numeral has 1 to 6 (`length_dec`). -/
theorem dumpTextLength : Obligations.DumpTextLength := by
  intro c
  have hlength : (dumpText c).length = 87 + ((dec c.accX).length + (dec c.accY).length + (dec c.accZ).length +
      (dec c.gyroRoll).length + (dec c.gyroPitch).length + (dec c.gyroYaw).length) := by
    rw [dumpTextLayout c]
    simp only [List.length_append, List.length_cons, List.length_nil]
    omega
  have hx := length_dec c.accX
  have hy := length_dec c.accY
  have hz := length_dec c.accZ
  have hroll := length_dec c.gyroRoll
  have hpitch := length_dec c.gyroPitch
  have hyaw := length_dec c.gyroYaw
  exact ⟨hlength, by omega, by omega⟩

end Sys2Proof.Machine
end

section
/-! The assembler reads what the canonical spelling writes: characters into words, words into a line, lines into a program
(R69, R70; the line conventions are those of notes/assumptions/12.md). -/

namespace Sys2Proof.Machine

/-! ### Words of a line -/

/-- A character that may stand in a word: no blank, no start of a comment, no end of a line. -/
def wordChar (c : Char) : Bool := !isBlankChar c && decide (c ≠ ';') && decide (c ≠ '\n')

/-- A word: not empty, and of such characters. -/
def isWord (w : List Char) : Bool := !w.isEmpty && w.all wordChar

/-- Words with one space between each two. -/
def spaced : List (List Char) → List Char
  | [] => []
  | [w] => w
  | w :: w' :: ws => w ++ ' ' :: spaced (w' :: ws)

theorem isWord_iff (w : List Char) : isWord w = true ↔ w ≠ [] ∧ ∀ c ∈ w, wordChar c = true := by
  simp [isWord]

theorem not_blank_of_wordChar {c : Char} (h : wordChar c = true) : isBlankChar c = false := by
  simp only [wordChar, Bool.and_eq_true, Bool.not_eq_true'] at h
  exact h.1.1

theorem wordsFrom_word {w : List Char} (hw : ∀ c ∈ w, wordChar c = true) (acc cs : List Char) :
    wordsFrom acc (w ++ cs) = wordsFrom (acc ++ w) cs := by
  induction w generalizing acc with
  | nil => simp
  | cons c w ih =>
    have hc := not_blank_of_wordChar (hw c List.mem_cons_self)
    rw [List.cons_append, wordsFrom, if_neg (by simp [hc]), ih fun c' hc' => hw c' (List.mem_cons_of_mem c hc'),
      List.append_assoc, List.singleton_append]

/-- Blanks before the first word of a line are skipped. -/
theorem wordsFrom_indent {bs : List Char} (hbs : ∀ c ∈ bs, isBlankChar c = true) (cs : List Char) :
    wordsFrom [] (bs ++ cs) = wordsFrom [] cs := by
  induction bs with
  | nil => rfl
  | cons b bs ih =>
    rw [List.cons_append, wordsFrom, if_pos (hbs b List.mem_cons_self), if_pos List.isEmpty_nil]
    exact ih fun c hc => hbs c (List.mem_cons_of_mem b hc)

theorem wordsFrom_blanks {bs : List Char} (hbs : ∀ c ∈ bs, isBlankChar c = true) : wordsFrom [] bs = [] := by
  simpa [wordsFrom] using wordsFrom_indent hbs []

/-- A blank, or the end of the line, ends the word being read. -/
theorem wordsFrom_word_end {w : List Char} (hw : w ≠ []) {b : Char} (hb : isBlankChar b = true) (cs : List Char) :
    wordsFrom w (b :: cs) = w :: wordsFrom [] cs := by
  rw [wordsFrom, if_pos hb, if_neg (by simpa using hw)]

theorem wordsFrom_last_word {w : List Char} (hw : w ≠ []) {bs : List Char} (hbs : ∀ c ∈ bs, isBlankChar c = true) :
    wordsFrom w bs = [w] := by
  cases bs with
  | nil => rw [wordsFrom, if_neg (by simpa using hw)]
  | cons b bs =>
    rw [wordsFrom_word_end hw (hbs b List.mem_cons_self),
      wordsFrom_blanks fun c hc => hbs c (List.mem_cons_of_mem b hc)]

/-- Spaced words are read back, whatever blanks follow. -/
theorem wordsFrom_spaced {ws : List (List Char)} (hws : ∀ w ∈ ws, isWord w = true) {bs : List Char}
    (hbs : ∀ c ∈ bs, isBlankChar c = true) : wordsFrom [] (spaced ws ++ bs) = ws := by
  induction ws with
  | nil => exact wordsFrom_blanks hbs
  | cons w ws ih =>
    obtain ⟨hne, hchars⟩ := (isWord_iff w).mp (hws w List.mem_cons_self)
    have hrest := ih fun w' hw' => hws w' (List.mem_cons_of_mem w hw')
    cases ws with
    | nil => rw [spaced, wordsFrom_word hchars, List.nil_append, wordsFrom_last_word hne hbs]
    | cons w' ws =>
      rw [spaced, List.append_assoc, wordsFrom_word hchars, List.nil_append, List.cons_append,
        wordsFrom_word_end hne rfl, hrest]

/-- Spaced words hold no start of a comment and no end of a line. -/
theorem spaced_chars {ws : List (List Char)} (hws : ∀ w ∈ ws, isWord w = true) :
    ∀ c ∈ spaced ws, c ≠ ';' ∧ c ≠ '\n' := by
  have hword {w : List Char} (hw : isWord w = true) : ∀ c ∈ w, c ≠ ';' ∧ c ≠ '\n' := fun c hc => by
    have hchar := ((isWord_iff w).mp hw).2 c hc
    simp only [wordChar, Bool.and_eq_true, decide_eq_true_eq] at hchar
    exact ⟨hchar.1.2, hchar.2⟩
  induction ws with
  | nil => exact fun c hc => absurd hc List.not_mem_nil
  | cons w ws ih =>
    have hrest := ih fun w' hw' => hws w' (List.mem_cons_of_mem w hw')
    cases ws with
    | nil => exact hword (hws w List.mem_cons_self)
    | cons w' ws =>
      intro c hc
      obtain hc | hc := List.mem_append.mp hc
      · exact hword (hws w List.mem_cons_self) c hc
      · obtain rfl | hc := List.mem_cons.mp hc
        · decide
        · exact hrest c hc

/-! ### The words of the canonical spelling -/

/-- The words of a line's canonical spelling. -/
def lineWords : AsmLine → List (List Char)
  | .blank => []
  | .cmd i => [(mnemonicOf i).toList]
  | .getIndex n => ["GET".toList, [digitChar n]]
  | .getName ch => ["GET".toList, (channelName ch).toList]
  | .raw n => [".cmd".toList, ['0', 'x', hexDigitChar (n / 16), hexDigitChar (n % 16)]]

theorem renderLine_eq_spaced (l : AsmLine) : renderLine l = spaced (lineWords l) := by
  cases l <;> rfl

theorem isWord_mnemonicOf (i : Instr) : isWord (mnemonicOf i).toList = true := by
  cases i <;> decide

theorem isWord_channelName (ch : Channel) : isWord (channelName ch).toList = true := by
  cases ch <;> decide

theorem isWord_digitChar : ∀ n, n < 6 → isWord [digitChar n] = true := by decide

theorem wordChar_hexDigitChar : ∀ d, d < 16 → wordChar (hexDigitChar d) = true := by decide

theorem channelField_lt {n : Nat} (h : channelFieldWf n = true) : n < 6 :=
  Nat.lt_succ_of_le (of_decide_eq_true h)

theorem rawByte_lt {n : Nat} (h : rawByteWf n = true) : n < 256 :=
  Nat.lt_succ_of_le (of_decide_eq_true h)

theorem isWord_of_mem_lineWords {l : AsmLine} (hwf : l.wf = true) : ∀ w ∈ lineWords l, isWord w = true := by
  cases l with
  | blank => exact fun w hw => absurd hw List.not_mem_nil
  | cmd i => simpa [lineWords] using isWord_mnemonicOf i
  | getIndex n => simpa [lineWords] using ⟨by decide, isWord_digitChar n (channelField_lt hwf)⟩
  | getName ch => simpa [lineWords] using ⟨by decide, isWord_channelName ch⟩
  | raw n =>
    have hbyte := rawByte_lt hwf
    have hhigh := wordChar_hexDigitChar (n / 16) (by omega)
    have hlow := wordChar_hexDigitChar (n % 16) (by omega)
    have hzerox : wordChar '0' = true ∧ wordChar 'x' = true := by decide
    simpa [lineWords] using ⟨by decide, by simp [isWord, hzerox, hhigh, hlow]⟩

/-! ### A line from its words -/

theorem commandNamed_mnemonicOf (i : Instr) : commandNamed (mnemonicOf i).toList = some i := by
  cases i <;> decide

theorem channelNamed_channelName (ch : Channel) : channelNamed (channelName ch).toList = some ch := by
  cases ch <;> decide

/-- An index is no channel's name, and reads as itself. -/
theorem channelNamed_digitChar : ∀ n, n < 6 → channelNamed [digitChar n] = none := by decide

theorem readDecimal_digitChar : ∀ n, n < 6 → readDecimal [digitChar n] = some n := by decide

theorem hexDigit_hexDigitChar : ∀ d, d < 16 → hexDigit (hexDigitChar d) = some d := by decide

/-- Two hexadecimal digits after `0x` read as the byte they spell. -/
theorem readNumber_hex {n : Nat} (h : n < 256) :
    readNumber ['0', 'x', hexDigitChar (n / 16), hexDigitChar (n % 16)] = some n := by
  have hhigh := hexDigit_hexDigitChar (n / 16) (by omega)
  have hlow := hexDigit_hexDigitChar (n % 16) (by omega)
  simp only [readNumber, List.isEmpty_cons, readDigits, hhigh, hlow, Bool.false_eq_true, if_false, Option.some.injEq]
  omega

theorem lineOfWords_lineWords {l : AsmLine} (hwf : l.wf = true) : lineOfWords (lineWords l) = .ok l := by
  have hne : ".cmd".toList ≠ "GET".toList := by decide
  cases l with
  | blank => rfl
  | cmd i => simp only [lineWords, lineOfWords, commandNamed_mnemonicOf]
  | getIndex n =>
    have hindex := channelField_lt hwf
    simp only [lineWords, lineOfWords, if_true, channelNamed_digitChar n hindex, readDecimal_digitChar n hindex]
  | getName ch => simp only [lineWords, lineOfWords, if_true, channelNamed_channelName]
  | raw n => simp only [lineWords, lineOfWords, if_neg hne, if_true, readNumber_hex (rawByte_lt hwf)]

/-! ### Lines of text -/

theorem codePart_of_no_comment {cs : List Char} (h : ∀ c ∈ cs, c ≠ ';') : codePart cs = cs := by
  induction cs with
  | nil => rfl
  | cons c cs ih =>
    rw [codePart, if_neg (h c List.mem_cons_self), ih fun c' hc' => h c' (List.mem_cons_of_mem c hc')]

/-- A comment is cut off, whatever it says. -/
theorem codePart_append_comment {cs : List Char} (h : ∀ c ∈ cs, c ≠ ';') (comment : List Char) :
    codePart (cs ++ ';' :: comment) = cs := by
  induction cs with
  | nil => rfl
  | cons c cs ih =>
    rw [List.cons_append, codePart, if_neg (h c List.mem_cons_self),
      ih fun c' hc' => h c' (List.mem_cons_of_mem c hc')]

theorem renderLine_chars {l : AsmLine} (hwf : l.wf = true) : ∀ c ∈ renderLine l, c ≠ ';' ∧ c ≠ '\n' := by
  rw [renderLine_eq_spaced]
  exact spaced_chars (isWord_of_mem_lineWords hwf)

/-- Whatever comment has been cut off, the canonical spelling with blanks around it reads as its line. -/
theorem parseLine_of_codePart {l : AsmLine} (hwf : l.wf = true) {cs before after : List Char}
    (hcode : codePart cs = before ++ renderLine l ++ after) (hbefore : ∀ c ∈ before, isBlankChar c = true)
    (hafter : ∀ c ∈ after, isBlankChar c = true) : parseLine cs = .ok l := by
  rw [parseLine, hcode, List.append_assoc, wordsFrom_indent hbefore, renderLine_eq_spaced,
    wordsFrom_spaced (isWord_of_mem_lineWords hwf) hafter, lineOfWords_lineWords hwf]

theorem parseLine_renderLine {l : AsmLine} (hwf : l.wf = true) : parseLine (renderLine l) = .ok l := by
  refine parseLine_of_codePart hwf (before := []) (after := []) ?_ (by simp) (by simp)
  rw [List.nil_append, List.append_nil]
  exact codePart_of_no_comment fun c hc => (renderLine_chars hwf c hc).1

/-- Settles O6: neither a blank nor the spelling holds a `;`, so the comment is cut off where it begins
(`codePart_append_comment`), and the blanks around the words are skipped (`parseLine_of_codePart`). -/
theorem commentsAndBlanksIgnored : Obligations.CommentsAndBlanksIgnored := by
  intro l before after comment hwf hbefore hafter
  have hblank {c : Char} (hc : isBlankChar c = true) : c ≠ ';' := by
    rintro rfl
    simp [isBlankChar] at hc
  refine parseLine_of_codePart hwf (codePart_append_comment (fun c hc => ?_) comment) hbefore hafter
  obtain hc | hc := List.mem_append.mp hc
  · obtain hc | hc := List.mem_append.mp hc
    · exact hblank (hbefore c hc)
    · exact (renderLine_chars hwf c hc).1
  · exact hblank (hafter c hc)

/-! ### Programs -/

theorem linesFrom_line {cs : List Char} (h : ∀ c ∈ cs, c ≠ '\n') (acc rest : List Char) :
    linesFrom acc (cs ++ '\n' :: rest) = (acc ++ cs) :: linesFrom [] rest := by
  induction cs generalizing acc with
  | nil => simp [linesFrom]
  | cons c cs ih =>
    rw [List.cons_append, linesFrom, if_neg (h c List.mem_cons_self), ih fun c' hc' => h c' (List.mem_cons_of_mem c hc'),
      List.append_assoc, List.singleton_append]

/-- The lines of a program's text are its lines' spellings, and the empty line after the last line feed. -/
theorem linesFrom_renderProgram {ls : List AsmLine} (hwf : ∀ l ∈ ls, l.wf = true) :
    linesFrom [] (renderProgram ls) = (ls ++ [AsmLine.blank]).map renderLine := by
  induction ls with
  | nil => rfl
  | cons l ls ih =>
    have hline : ∀ c ∈ renderLine l, c ≠ '\n' := fun c hc => (renderLine_chars (hwf l List.mem_cons_self) c hc).2
    have hrest := ih fun l' hl' => hwf l' (List.mem_cons_of_mem l hl')
    calc linesFrom [] (renderProgram (l :: ls)) = linesFrom [] (renderLine l ++ '\n' :: renderProgram ls) := by
          simp [renderProgram]
      _ = renderLine l :: linesFrom [] (renderProgram ls) := linesFrom_line hline [] _
      _ = (l :: ls ++ [AsmLine.blank]).map renderLine := by rw [hrest, List.cons_append, List.map_cons]

theorem parseLines_map_renderLine {ls : List AsmLine} (hwf : ∀ l ∈ ls, l.wf = true) :
    parseLines (ls.map renderLine) = .ok ls := by
  induction ls with
  | nil => rfl
  | cons l ls ih =>
    simp only [List.map_cons, parseLines, parseLine_renderLine (hwf l List.mem_cons_self),
      ih fun l' hl' => hwf l' (List.mem_cons_of_mem l hl')]

/-- A blank line at the end emits nothing. -/
theorem linesCode_append_blank (ls : List AsmLine) : linesCode (ls ++ [AsmLine.blank]) = linesCode ls := by
  induction ls with
  | nil => rfl
  | cons l ls ih => rw [List.cons_append, linesCode, linesCode, ih]

theorem assemble_renderProgram {ls : List AsmLine} (hwf : ∀ l ∈ ls, l.wf = true) :
    assemble (renderProgram ls) = linesCode ls := by
  have hwf' : ∀ l ∈ ls ++ [AsmLine.blank], l.wf = true := by
    intro l hl
    obtain hl | hl := List.mem_append.mp hl
    · exact hwf l hl
    · rw [List.mem_singleton.mp hl]
      rfl
  simp only [assemble, linesFrom_renderProgram hwf, parseLines_map_renderLine hwf', linesCode_append_blank]

/-- A well-formed line has words (R69, R70). -/
theorem lineCode_of_wf {l : AsmLine} (hwf : l.wf = true) : ∃ c, lineCode l = .ok c := by
  cases l with
  | blank | cmd | getName => exact ⟨_, rfl⟩
  | getIndex n =>
    obtain ⟨ch, rfl⟩ := exists_index (channelField_lt hwf)
    exact ⟨[encode (Instr.get ch)], by simp [lineCode]⟩
  | raw n => exact ⟨_, if_pos hwf⟩

theorem linesCode_of_wf {ls : List AsmLine} (hwf : ∀ l ∈ ls, l.wf = true) : ∃ cs, linesCode ls = .ok cs := by
  induction ls with
  | nil => exact ⟨[], rfl⟩
  | cons l ls ih =>
    obtain ⟨c, hc⟩ := lineCode_of_wf (hwf l List.mem_cons_self)
    obtain ⟨cs, hcs⟩ := ih fun l' hl' => hwf l' (List.mem_cons_of_mem l hl')
    exact ⟨c ++ cs, by simp only [linesCode, hc, hcs]⟩

theorem linesCode_map_cmd (is : List Instr) : linesCode (is.map .cmd) = .ok (is.map encode) := by
  induction is with
  | nil => rfl
  | cons i is ih => simp only [List.map_cons, linesCode, lineCode, ih, List.singleton_append]

/-- A command has no operand that could be ill formed. -/
theorem instr_wf (i : Instr) : i.wf = true := by
  cases i <;> rfl

/-- Settles O4: the text reads back as its lines (`assemble_renderProgram`), which have words; those of commands are the
commands' own, which decode to them (`decodeProgram_map_encode`). -/
theorem assemblerRoundTrip : Obligations.AssemblerRoundTrip := by
  refine ⟨fun ls hwf => ?lines, fun is => ?commands⟩
  case lines =>
    obtain ⟨cs, hcs⟩ := linesCode_of_wf hwf
    exact ⟨cs, hcs, (assemble_renderProgram hwf).trans hcs⟩
  case commands =>
    have hwf : ∀ l ∈ is.map AsmLine.cmd, l.wf = true := by
      intro l hl
      obtain ⟨i, _, rfl⟩ := List.mem_map.mp hl
      exact instr_wf i
    exact ⟨_, (assemble_renderProgram hwf).trans (linesCode_map_cmd is), decodeProgram_map_encode is⟩

/-- The word of a `GET_*` is `0x10` and the channel's index (R64). -/
theorem encodeGet_eq_ofNat (ch : Channel) : encodeGet ch = BitVec.ofNat 8 (0x10 + ch.index) := by
  cases ch <;> rfl

/-- Settles O5: the index of a channel names it, one past 5 names none, and `.cmd` takes one byte. -/
theorem pseudoInstructionWords : Obligations.PseudoInstructionWords := by
  refine ⟨fun n hn => ?index, fun n hn => ?noIndex, fun ch => ?name, fun n hn => ?byte, fun n hn => ?noByte⟩
  case index =>
    obtain ⟨ch, rfl⟩ := exists_index (Nat.lt_succ_of_le hn)
    simp only [lineCode, ofIndex_index, encode_get, encodeGet_eq_ofNat]
  case noIndex => simp only [lineCode, ofIndex_large hn]
  case name => simp only [lineCode, ofIndex_index]
  case byte => simp [lineCode, rawByteWf, hn]
  case noByte => simp [lineCode, rawByteWf, hn]

end Sys2Proof.Machine
end

section
/-! Whole commands on an empty schedule, where the block moves whenever it has an enabled step: the run of a sample up to
`PROCESS`, then the answer of `SAMPLE` and the text of `DUMP` (R107, R116; notes/assumptions/2.md). -/

namespace Sys2Proof.Machine

theorem runWith_add_of_next {p : Config.Params} {m : Nat} {s t : State} (h : runWith p m s = .next t) (n : Nat) :
    runWith p (m + n) s = runWith p n t := by
  induction m generalizing s with
  | zero =>
    obtain rfl : s = t := Host.Outcome.next.inj h
    rw [Nat.zero_add]
  | succ m ih =>
    rw [Nat.succ_add, runWith]
    rw [runWith] at h
    split at h
    · exact ih h
    · cases h
    · cases h

/-- One more step at the end of a run. -/
theorem runWith_succ_of_run {p : Config.Params} {n : Nat} {s t u : State} (hrun : runWith p n s = .next t)
    (hstep : stepWith p t = .next u) : runWith p (n + 1) s = .next u := by
  rw [runWith_add_of_next hrun, runWith_succ_of_next hstep, runWith_zero]

/-- With nothing scheduled, the block goes first where it has an enabled step. -/
theorem stepWith_of_blockStep {p : Config.Params} {s t : State} (hsched : s.sched = []) (henabled : s.blockEnabled = true)
    (h : blockStep p s = .next t) : stepWith p s = .next t := by
  simp [stepWith, hsched, defaultMove, henabled, moveWith, h]

/-! ### Receiving the data bytes -/

/-- The receiving phase with `n` data bytes read (R28, R85). -/
def receivePhase (n : Nat) : Phase := if n = Config.dataLen then .rxDelim else .rxData

/-- The frame buffer after bytes are written from an offset on. -/
def fillFrame : Memory → Nat → List Byte → Memory
  | m, _, [] => m
  | m, a, b :: bs => fillFrame (Memory.write m a b) (a + 1) bs

/-- Each byte stands at its own offset, and every other offset reads as before. -/
theorem read_fillFrame (bs : List Byte) : ∀ (m : Memory) (a : Nat), Memory.wf m = true → ∀ k,
    Memory.read (fillFrame m a bs) k = if a ≤ k ∧ k < a + bs.length then bs.getD (k - a) 0 else Memory.read m k := by
  induction bs with
  | nil => exact fun m a _ k => (if_neg (by simp)).symm
  | cons b bs ih =>
    intro m a hwf k
    rw [fillFrame, ih _ _ (Memory.wf_write a b hwf), Memory.read_write a k b hwf, List.length_cons]
    obtain hbelow | rfl | habove := Nat.lt_trichotomy k a
    · rw [if_neg (by omega), if_neg (by omega), if_neg (by omega)]
    · simp
    · have hshift : k - a = k - (a + 1) + 1 := by omega
      rw [hshift, List.getD_cons_succ]
      exact if_congr (by omega) rfl (if_neg (by omega))

/-- The state after the data bytes `bs` are read and `rest` is left on the stream. -/
def afterData (bs rest : List Byte) (s : State) : State :=
  { s with
    rxq := rest
    hist := s.hist ++ bs.map .rx
    fbuf := fillFrame s.fbuf s.rxCount bs
    rxCount := s.rxCount + bs.length
    phase := receivePhase (s.rxCount + bs.length) }

/-- With the bytes on the stream, RXDATA reads one in each step (R85). -/
theorem runWith_receive (p : Config.Params) (rest bs : List Byte) : ∀ s : State, s.sched = [] →
    s.phase = receivePhase s.rxCount → s.rxq = bs ++ rest → s.rxCount + bs.length ≤ Config.dataLen →
    runWith p bs.length s = .next (afterData bs rest s) := by
  induction bs with
  | nil =>
    intro s _ hphase hq _
    simp only [afterData, List.map_nil, List.append_nil, fillFrame, List.length_nil, Nat.add_zero, ← hphase]
    rw [show rest = s.rxq from hq.symm]
    rfl
  | cons b bs ih =>
    intro s hsched hphase hq hfits
    rw [List.length_cons] at hfits
    have hroom : s.rxCount < Config.dataLen := by omega
    have hrxData : s.phase = .rxData := by rw [hphase, receivePhase, if_neg hroom.ne]
    have hstep : stepWith p s =
        .next (storeDataByte b { s with rxq := bs ++ rest, hist := s.hist ++ [.rx b] }) :=
      stepWith_of_blockStep hsched (by simp [State.blockEnabled, hrxData, hq]) (blockStep_rxData p hrxData hq hroom)
    rw [List.length_cons, runWith_succ_of_next hstep, ih]
    · simp [afterData, storeDataByte, fillFrame, Nat.add_assoc, Nat.add_comm 1]
    · exact hsched
    · simp [receivePhase, hrxData]
    · rfl
    · simp only [storeDataByte_rxCount]
      omega

/-! ### The sample up to `PROCESS` -/

/-- The state in `RX_DATA` once a command `k` has asked for a frame: the request sent and the bus released (R78 to R80). -/
def requestedFrame (k : CurCmd) (s : State) : State :=
  { s with
    cur := k
    dir := false
    phase := .rxData
    rxCount := 0
    hist := s.hist ++ [.dir true, .tx 0x3C, .dir false] }

/-- The state at `PROCESS` after the data bytes `data` and the delimiter `d` of a command `k` (R107). -/
def sampledFrame (k : CurCmd) (data : List Byte) (d : Byte) (rest : List Byte) (s : State) : State :=
  { s with
    cur := k
    dir := false
    phase := .process
    fbuf := fillFrame s.fbuf 0 data
    rxCount := Config.dataLen
    rxq := rest
    hist := s.hist ++ [.dir true, .tx 0x3C, .dir false] ++ (data ++ [d]).map .rx }

/-- After ASSERT, one step for REQUEST and one for RELEASE. -/
theorem runWith_requestedFrame (p : Config.Params) (k : CurCmd) {s : State} (hsched : s.sched = [])
    (htx : s.txReady = true) : runWith p 2 (stepAssert k s) = .next (requestedFrame k s) := by
  have hrequest := stepWith_of_blockStep (p := p) (s := stepAssert k s) hsched htx (blockStep_request p rfl htx)
  have hrelease := stepWith_of_blockStep (p := p)
    (s := { stepAssert k s with hist := (stepAssert k s).hist ++ [.tx 0x3C], phase := .turn }) hsched rfl
    (blockStep_release p rfl)
  rw [runWith_succ_of_next hrequest, runWith_succ_of_next hrelease, runWith_zero]
  simp [requestedFrame, stepRelease, stepAssert, dirSet]

/-- Then twelve steps for the data bytes and one for the delimiter. -/
theorem runWith_sampledFrame (p : Config.Params) (k : CurCmd) {s : State} {data rest : List Byte} {d : Byte}
    (hsched : s.sched = []) (htx : s.txReady = true) (hq : s.rxq = data ++ d :: rest)
    (hlen : data.length = Config.dataLen) :
    runWith p 15 (stepAssert k s) = .next (sampledFrame k data d rest s) := by
  have hdata := runWith_receive p (d :: rest) data (requestedFrame k s) hsched rfl hq (by simp [requestedFrame, hlen])
  have hphase : (afterData data (d :: rest) (requestedFrame k s)).phase = .rxDelim := by
    simp [afterData, requestedFrame, receivePhase, hlen]
  have hdelim := stepWith_of_blockStep (p := p) (s := afterData data (d :: rest) (requestedFrame k s)) hsched
    (by rw [State.blockEnabled, hphase]; rfl) (blockStep_rxDelim p hphase rfl)
  have hrun := (runWith_add_of_next (runWith_requestedFrame p k hsched htx) _).trans (runWith_succ_of_run hdata hdelim)
  rw [hlen] at hrun
  refine hrun.trans (congrArg Host.Outcome.next ?_)
  simp [afterData, requestedFrame, sampledFrame, hlen]

/-- Thirteen bytes are twelve data bytes and the delimiter (R75). -/
theorem exists_data_delimiter {f : List Byte} (h : f.length = 13) :
    ∃ data d, f = data ++ [d] ∧ data.length = Config.dataLen := by
  have hne : f ≠ [] := List.ne_nil_of_length_pos (by omega)
  exact ⟨f.dropLast, f.getLast hne, (List.dropLast_append_getLast hne).symm, by simp [h, Config.dataLen]⟩

/-- The frame buffer then holds the twelve data bytes, whatever it held before. -/
theorem read_sampledFrame {m : Memory} {data : List Byte} (d : Byte) (hwf : Memory.wf m = true)
    (hlen : data.length = Config.dataLen) {k : Nat} (hk : k < 12) :
    Memory.read (fillFrame m 0 data) k = (data ++ [d]).getD k 0 := by
  have hkdata : k < data.length := hlen.symm ▸ hk
  rw [read_fillFrame data m 0 hwf, if_pos (by omega), Nat.sub_zero, List.getD_append _ _ _ _ hkdata]

/-- So each register committed is the value of its two bytes in the frame (R93, R98). -/
theorem get_scaledCache_fillFrame (p : Config.Params) {m : Memory} {data : List Byte} (d : Byte)
    (hwf : Memory.wf m = true) (hlen : data.length = Config.dataLen) (ch : Channel) :
    (scaledCache p (fillFrame m 0 data)).get ch = frameValue p (data ++ [d]) ch := by
  rw [get_scaledCache, localValue, read_sampledFrame d hwf hlen (k := 2 * ch.index) (byteOffset_lt ch false),
    read_sampledFrame d hwf hlen (k := 2 * ch.index + 1) (byteOffset_lt ch true), frameValue]

/-- Settles O37: `runWith_sampledFrame`, and then PROCESS answers. -/
theorem sampleRunCommitsFrame : Obligations.SampleRunCommitsFrame := by
  intro p s f rest hphase hresp hsched htx hwf hq hlen
  obtain ⟨data, d, rfl, hdata⟩ := exists_data_delimiter hlen
  rw [List.append_assoc, List.singleton_append] at hq
  have hprocess := stepWith_of_blockStep (s := sampledFrame .sample data d rest s) hsched rfl
    (blockStep_process_sample p rfl rfl)
  exact ⟨_, _, exec_sample_open hphase hresp,
    runWith_succ_of_run (runWith_sampledFrame p .sample hsched htx hq hdata) hprocess,
    get_scaledCache_fillFrame p d hwf hdata, fun k hk => read_sampledFrame d hwf hdata hk, rfl⟩

/-! ### The text of a dump -/

/-- With the sink ready, EMIT writes one byte of the text in each step (R120). -/
theorem runWith_emit (p : Config.Params) (bs : List Byte) : ∀ s : State, s.sched = [] → s.phase = .emit →
    s.sinkReady = true → s.text.drop s.tidx = bs →
    runWith p bs.length s = .next { s with hist := s.hist ++ bs.map .text, tidx := s.tidx + bs.length } := by
  induction bs with
  | nil =>
    intro s _ _ _ _
    simp [runWith_zero]
  | cons b bs ih =>
    intro s hsched hphase hsink hrest
    have hbyte : s.text[s.tidx]? = some b := by
      rw [← List.head?_drop, hrest, List.head?_cons]
    have hstep := stepWith_of_blockStep hsched (by simp [State.blockEnabled, hphase, hsink])
      (blockStep_emit_byte p hphase hbyte hsink)
    have hdrop : s.text.drop (s.tidx + 1) = bs := by
      rw [← List.drop_drop, hrest, List.drop_one, List.tail_cons]
    rw [List.length_cons, runWith_succ_of_next hstep, ih _ (by exact hsched) (by exact hphase) (by exact hsink) hdrop]
    simp [Nat.add_assoc, Nat.add_comm 1]

/-- The state once the whole text is written. -/
def writtenText (s : State) : State := { s with hist := s.hist ++ s.text.map .text, tidx := s.text.length }

/-- From `EMIT` with nothing written, the whole text and then the answer. -/
theorem runWith_emit_all (p : Config.Params) {s : State} (hsched : s.sched = []) (hphase : s.phase = .emit)
    (hsink : s.sinkReady = true) (hstart : s.tidx = 0) :
    runWith p (s.text.length + 1) s = .next (respondStatus .ok (writtenText s)) := by
  have hrun := runWith_emit p s.text s hsched hphase hsink (by rw [hstart, List.drop_zero])
  rw [hstart, Nat.zero_add] at hrun
  exact runWith_succ_of_run hrun
    (stepWith_of_blockStep hsched (by simp [State.blockEnabled, hphase]) (blockStep_emit_end p hphase le_rfl))

/-- Settles O38: `runWith_sampledFrame`, then PROCESS starts the text of the cache it commits, and `runWith_emit_all`. -/
theorem dumpRunWritesText : Obligations.DumpRunWritesText := by
  intro p s f rest hphase hresp hsched htx hsink hwf hq hlen
  obtain ⟨data, d, rfl, hdata⟩ := exists_data_delimiter hlen
  rw [List.append_assoc, List.singleton_append] at hq
  have hprocess := stepWith_of_blockStep (s := sampledFrame .dump data d rest s) hsched rfl
    (blockStep_process_dump p rfl CurCmd.noConfusion)
  have hemit := runWith_emit_all p (s := startEmit (commit p (sampledFrame .dump data d rest s))) hsched rfl hsink rfl
  have hrun := (runWith_add_of_next (runWith_succ_of_run (runWith_sampledFrame p .dump hsched htx hq hdata) hprocess)
    _).trans hemit
  have hcount (n : Nat) : 17 + n = 15 + 1 + (n + 1) := by omega
  refine ⟨_, respondStatus .ok (writtenText (startEmit (commit p (sampledFrame .dump data d rest s)))),
    exec_dump_open hphase hresp, ?_, get_scaledCache_fillFrame p d hwf hdata, fun k hk => read_sampledFrame d hwf hdata hk,
    rfl⟩
  rw [hcount]
  exact hrun

end Sys2Proof.Machine
end
